-- ==== Sys2Proof/Word.lean ====
section
/-! DEFINITION. The word types of the block: a 32-bit register or command word (R32, R110), a Byte (0..255) and a Bit (R13). -/

namespace Sys2Proof

/-- A register or command word, bit 0 the least significant (R13, R32). -/
abbrev Word := BitVec 32

/-- A Byte, "an integer in 0..255" (R13). -/
abbrev Byte := BitVec 8

/-- A Bit, "0 or 1" (R13): `false` is 0 and `true` is 1. -/
abbrev Bit := Bool

end Sys2Proof
end

