-- ==== Sys2Proof/Syntax.lean ====
section
/-! DEFINITION. The ten commands of CORE-CMD v1, one constructor for each row of the opcode table (R112). -/

namespace Sys2Proof

/-- A legal command. It has no operand field: "a command word has no register-number field, no immediate field and no mode
field" (R111). The two words of ARBITRATE, F = 0 and F = 1, are two rows of the table (R112, R118). -/
inductive Instr where
  /-- UNPACK, bitstream_to_bits_unpacker (R140). -/
  | unpack
  /-- PACK, bits_to_bitstream_packer (R141). -/
  | pack
  /-- CAPACITY, the shared capacity unit (R160). -/
  | capacity
  /-- FRAME, frame_header_encoder (R170). -/
  | frame
  /-- PARSE, the frame decoder (R171). -/
  | parse
  /-- ARBITRATE with F = 0, payload_truncation_arbiter with no fraction given (R190). -/
  | arbitrate
  /-- ARBITRATE with F = 1 (ARBITRATE.F), the fraction FRAC_NUM / FRAC_DEN given (R190). -/
  | arbitrateF
  /-- EMBED, lsb_embedder (R210). -/
  | embed
  /-- EXTHDR, the header read of lsb_extractor (R220). -/
  | exthdr
  /-- EXTMSG, the message read of lsb_extractor (R221). -/
  | extmsg
  deriving DecidableEq, Repr

end Sys2Proof
end

