-- ==== Sys2Proof/WellFormed.lean ====
section
/-! DEFINITION. The one command format CMD32 as its fields (R110), and the checks a legal command word meets (R113, R114). -/

namespace Sys2Proof

/-- The fields of CMD32 (R110): OPC [3:0], RSV0 [7:4], F [8], RSV1 [31:9]. -/
structure Cmd32 where
  opc  : BitVec 4
  rsv0 : BitVec 4
  f    : Bit
  rsv1 : BitVec 23
  deriving DecidableEq, Repr

/-- RSV0 and RSV1 "must be 0" (R110). -/
def Cmd32.reservedClear (c : Cmd32) : Bool := c.rsv0 == 0#4 && c.rsv1 == 0#23

/-- OPC 0x0 and 0xA to 0xF are illegal (R112, R114). -/
def Cmd32.opcodeAssigned (c : Cmd32) : Bool := decide (1 ≤ c.opc.toNat) && decide (c.opc.toNat ≤ 9)

/-- F = 1 only with OPC 0x6, "F only on ARBITRATE" (R113, R118). -/
def Cmd32.fractionPlaced (c : Cmd32) : Bool := !c.f || c.opc == 6#4

/-- The fields of one of the ten legal words (R112, R114). -/
def Cmd32.wellFormed (c : Cmd32) : Bool := c.reservedClear && c.opcodeAssigned && c.fractionPlaced

/-- A command carries no operand that could be out of range (R111), so each of the ten is well formed. -/
def Instr.wellFormed : Instr → Bool
  | .unpack => true
  | .pack => true
  | .capacity => true
  | .frame => true
  | .parse => true
  | .arbitrate => true
  | .arbitrateF => true
  | .embed => true
  | .exthdr => true
  | .extmsg => true

end Sys2Proof
end

