-- ==== Sys2Proof/Decode.lean ====
section
/-! DEFINITION. Decoding of a latched word, total on all 2^32 words (R113), and the encoder written from the same tables (R110, R112). -/

namespace Sys2Proof

/-- Why a word is illegal (R114). Each is reported as IllegalCommand, code 13. -/
inductive Illegal where
  /-- a bit of [7:4] or [31:9] is set -/
  | reservedBitSet
  /-- F = 1 with an OPC other than 0x6 -/
  | fractionBitMisplaced
  /-- OPC 0x0 or 0xA to 0xF -/
  | opcodeUnassigned
  deriving DecidableEq, Repr

/-- What a word decodes to: "Command or IllegalCommand" (R113), the latter with its cause. -/
inductive Decoded where
  | command (i : Instr)
  | illegal (why : Illegal)
  deriving DecidableEq, Repr

/-- The reserved-bit mask of R110. -/
def reservedMask : Word := 0xFFFFFEF0#32

/-- The opcode map of R112 for F = 0. -/
def opcodeMap : Nat → Decoded
  | 1 => .command .unpack
  | 2 => .command .pack
  | 3 => .command .capacity
  | 4 => .command .frame
  | 5 => .command .parse
  | 6 => .command .arbitrate
  | 7 => .command .embed
  | 8 => .command .exthdr
  | 9 => .command .extmsg
  | _ => .illegal .opcodeUnassigned

/-- `decode` of R113, in its order: the reserved bits, then OPC 0x6 with either F, then F = 1 elsewhere, then the opcode map. -/
def decode (v : Word) : Decoded :=
  if v &&& reservedMask ≠ 0#32 then .illegal .reservedBitSet
  else if v.extractLsb' 0 4 = 6#4 then .command (if v.getLsbD 8 then .arbitrateF else .arbitrate)
  else if v.getLsbD 8 then .illegal .fractionBitMisplaced
  else opcodeMap (v.extractLsb' 0 4).toNat

/-- The instruction of a decoded word, none for an illegal one. -/
def Decoded.instr? : Decoded → Option Instr
  | .command i => some i
  | .illegal _ => none

/-- The fields CMD32 gives each command (R110, R112). -/
def Instr.fields : Instr → Cmd32
  | .unpack => ⟨1#4, 0#4, false, 0#23⟩
  | .pack => ⟨2#4, 0#4, false, 0#23⟩
  | .capacity => ⟨3#4, 0#4, false, 0#23⟩
  | .frame => ⟨4#4, 0#4, false, 0#23⟩
  | .parse => ⟨5#4, 0#4, false, 0#23⟩
  | .arbitrate => ⟨6#4, 0#4, false, 0#23⟩
  | .arbitrateF => ⟨6#4, 0#4, true, 0#23⟩
  | .embed => ⟨7#4, 0#4, false, 0#23⟩
  | .exthdr => ⟨8#4, 0#4, false, 0#23⟩
  | .extmsg => ⟨9#4, 0#4, false, 0#23⟩

/-- The word of a CMD32's fields: RSV1 in [31:9], F in [8], RSV0 in [7:4], OPC in [3:0] (R110). -/
def Cmd32.word (c : Cmd32) : Word := c.rsv1 ++ BitVec.ofBool c.f ++ c.rsv0 ++ c.opc

/-- The fields of a word (R110). -/
def Cmd32.ofWord (v : Word) : Cmd32 :=
  ⟨v.extractLsb' 0 4, v.extractLsb' 4 4, v.getLsbD 8, v.extractLsb' 9 23⟩

/-- `word(MNEMONIC)`, the legal word of a command (R112, R119). -/
def encode (i : Instr) : Word := i.fields.word

/-- The command the decoder reads from an opcode-table word. A command is ONE 32-bit word with no byte order inside it (R82,
R110), so the table's bit numbers are the word's own; the bits from `nbits` up are 0. -/
def decodeTableWord (nbits w : Nat) : Option Instr :=
  if w % 2 ^ nbits < 2 ^ 32 then (decode (BitVec.ofNat 32 (w % 2 ^ nbits))).instr? else none

end Sys2Proof
end

