-- ==== Sys2Proof/Config.lean ====
section
/-! DEFINITION. The constants the source fixes (R8), the named parameters of an implementation (R9, R11), and the values the spec
leaves open, each an opaque constant that no proof can evaluate (R56, R85, R285). -/

namespace Sys2Proof.Config

/-- CHANNELS, bytes per pixel, ordered R, G, B (R8). -/
def channels : Nat := 3

/-- BPC_SUPPORTED, the only supported depth (R8). -/
def bpcSupported : Nat := 1

/-- HDR_BITS, the width of the frame header (R8). -/
def hdrBits : Nat := 32

/-- MAX_MSG_LEN, the largest framable message in bytes (R8). -/
def maxMsgLen : Nat := 2 ^ 32 - 1

/-- MIN_FRAC_BITS, the least truncation budget (R8). -/
def minFracBits : Nat := 40

/-- The buffer sizes, "named parameters, because no source gives them" (R9). LATENCY, the fifth parameter, is `latency`. -/
structure Params where
  ibufSize : Nat
  cbufSize : Nat
  bbufSize : Nat
  obufSize : Nat
  deriving DecidableEq, Repr

/-- The constraints of R9 on the sizes. -/
abbrev Params.Valid (p : Params) : Prop :=
  1 ≤ p.ibufSize ∧ 8 * p.ibufSize + 32 ≤ p.bbufSize ∧ 1 ≤ p.cbufSize ∧ p.cbufSize ≤ 2 ^ 28 ∧ p.bbufSize ≤ 2 ^ 28 ∧
    p.cbufSize ≤ p.obufSize ∧ p.bbufSize / 8 ≤ p.obufSize ∧ p.obufSize ≤ 2 ^ 28

/-- The reference configuration of the test vectors (R11). -/
def reference : Params := ⟨4096, 262144, 32800, 262144⟩

/-- What IBUF cell `index` holds after reset number `epoch` until it is written: a free value (R56, log 2). -/
opaque resetIbuf : (epoch index : Nat) → Byte

/-- The same for CBUF (R56, log 2). -/
opaque resetCbuf : (epoch index : Nat) → Byte

/-- The same for BBUF (R56, log 2). -/
opaque resetBbuf : (epoch index : Nat) → Bit

/-- The same for OBUF (R56, log 2). -/
opaque resetObuf : (epoch index : Nat) → Byte

/-- What draw number `n` gives a register read while BUSY = 1: "any 32-bit word", a free value (R85, log 3). -/
opaque busyWord : (n : Nat) → Word

/-- What draw number `n` gives a read of an IBUF, CBUF or OBUF cell while BUSY = 1: "any Byte", a free value (R85, log 3). -/
opaque busyByte : (n : Nat) → Byte

/-- What draw number `n` gives a read of a BBUF cell while BUSY = 1: "0x00 or 0x01", a free value (R85, log 3). -/
opaque busyBit : (n : Nat) → Bit

/-- LATENCY of the command issued at draw number `n`: "finite and unbounded; no rule depends on its value", a free value (R9,
R285, log 4). -/
opaque latency : (n : Nat) → Nat

end Sys2Proof.Config
end

