-- ==== Sys2Proof/Machine/Transaction.lean ====
section
/-! DEFINITION. The names of the host interface: registers (R32), buffers (R49 to R52), transactions (R80) and the host's own program (R119 to R121). -/

namespace Sys2Proof.Machine

/-- The eighteen registers of R32. -/
inductive Register where
  | id | cmd | status | width | height | bpc | fracNum | fracDen | ilen | clen | blen | olen | resultLo | resultHi
  | ibufSize | cbufSize | bbufSize | obufSize
  deriving DecidableEq, Repr

/-- The four buffers of R49 to R52. -/
inductive Buffer where
  | ibuf | cbuf | bbuf | obuf
  deriving DecidableEq, Repr

/-- The access sizes of R80: 1, 2 or 4 bytes. -/
inductive Size where
  | one | two | four
  deriving DecidableEq, Repr

/-- A host transaction (R80): `HostRead(addr, size)`, `HostWrite(addr, size, v)` or `Reset`. The value of a write stands in the
low `size` bytes of `v` (log 5). -/
inductive Transaction where
  | read (addr : Word) (size : Size)
  | write (addr : Word) (size : Size) (v : Word)
  | reset
  deriving DecidableEq, Repr

/-- One operation of the host's program: a transaction (R121), or one of the two forms of R120 that depend on what a read
returned: `wait`, which reads STATUS until BUSY = 0, and the second half of `copyout`, which writes the byte last read (log 5). -/
inductive HostOp where
  | txn (t : Transaction)
  | wait
  | writeBack (addr : Word)
  deriving DecidableEq, Repr

end Sys2Proof.Machine
end

