-- ==== Sys2Proof/Machine/State.lean ====
section
/-! DEFINITION. The whole architectural state (R54), as plain data, its reset (R55, R56), and the reasons a step can stop. -/

namespace Sys2Proof.Machine

/-- The written cells of a buffer, as (index, value) pairs in rising order of index. An index that is not listed has not been
written since reset and holds no value of its own here: the accessors of Ops.lean give it the reset draw of R56 (log 2). -/
abbrev Memory (α : Type) := List (Nat × α)

/-- CoreState of R54, and after it the model's own fields. -/
structure State where
  /-- STATUS.BUSY (R35) -/
  busy : Bit
  /-- STATUS.DONE (R35) -/
  done : Bit
  /-- STATUS.ERR (R35) -/
  err : Bit
  /-- STATUS.TRUNC (R35) -/
  trunc : Bit
  /-- STATUS.HERR (R35) -/
  herr : Bit
  /-- STATUS.ERRCODE (R35) -/
  errcode : BitVec 4
  /-- the hidden command latch (R53) -/
  latch : Word
  /-- W (R37) -/
  width : BitVec 16
  /-- H (R38) -/
  height : BitVec 16
  /-- bits_per_channel (R39) -/
  bpc : Word
  /-- numerator of the payload fraction (R40) -/
  fracNum : Word
  /-- denominator of the payload fraction (R41) -/
  fracDen : Word
  /-- byte count of the operand in IBUF (R42) -/
  ilen : Word
  /-- byte count of the pixel buffer in CBUF (R43) -/
  clen : Word
  /-- bit count of the sequence in BBUF (R44) -/
  blen : Word
  /-- byte count last written to OBUF (R45) -/
  olen : Word
  /-- RESULT_HI:RESULT_LO (R46) -/
  result : BitVec 64
  /-- input byte buffer (R49) -/
  ibuf : Memory Byte
  /-- pixel byte buffer (R50) -/
  cbuf : Memory Byte
  /-- bit buffer (R51) -/
  bbuf : Memory Bit
  /-- output byte buffer (R52) -/
  obuf : Memory Byte
  /-- MODEL's own: the buffer sizes of R9, configuration that no step changes (log 1) -/
  params : Config.Params
  /-- MODEL's own: which reset the cells not written since come from (log 2) -/
  epoch : Nat
  /-- MODEL's own: how many free values have been drawn (log 3, log 4) -/
  draws : Nat
  /-- MODEL's own: steps left before the latched command completes (log 4) -/
  wait : Nat
  /-- MODEL's own: what is left of the host's program, in program order (log 5) -/
  host : List HostOp
  /-- MODEL's own: what the host's reads returned, newest first (log 5) -/
  replies : List Word
  deriving DecidableEq, Repr

/-- Nothing in the spec stops the machine: an illegal word and every command error complete (R114, R242), every transaction is
total (R80), and every command completes (R287). So there is no reason a step can fault. -/
inductive Fault where
  deriving DecidableEq, Repr

/-- A step the model gives no meaning to. -/
inductive Refusal where
  /-- Raised by an arm of `exec` whose command has no meaning yet; no arm raises it. Safe: the run stops. -/
  | notModelled (mnemonic : String)
  deriving DecidableEq, Repr

/-- The machine right after reset (R55, R56, R271, R273): every register at the value R55 gives, no cell written. The model's own
fields start with the reference configuration, the first epoch, no draw, and a host that has nothing to do (log 1 to log 7). -/
def State.reset : State where
  busy := false
  done := false
  err := false
  trunc := false
  herr := false
  errcode := 0#4
  latch := 0#32
  width := 0#16
  height := 0#16
  bpc := 1#32
  fracNum := 0#32
  fracDen := 0#32
  ilen := 0#32
  clen := 0#32
  blen := 0#32
  olen := 0#32
  result := 0#64
  ibuf := []
  cbuf := []
  bbuf := []
  obuf := []
  params := Config.reference
  epoch := 0
  draws := 0
  wait := 0
  host := []
  replies := []

end Sys2Proof.Machine
end

