-- ==== Sys2Proof/Machine/Flags.lean ====
section
/-! DEFINITION. The error codes (R240), the STATUS word (R35), and what issue and completion do to the flags (R241). -/

namespace Sys2Proof.Machine

/-- The error kinds a command can report (R240). -/
inductive ErrorCode where
  | invalidLength | unsupportedDepth | payloadTooLarge | fractionTooSmall | insufficientCapacity | messageExceedsCapacity
  | requestExceedsCapacity | truncatedHeader | truncatedPayload | shapeMismatch | invalidFraction | operandOutOfRange
  | illegalCommand
  deriving DecidableEq, Repr

/-- STATUS.ERRCODE values (R240). -/
def ErrorCode.code : ErrorCode → BitVec 4
  | .invalidLength => 1#4
  | .unsupportedDepth => 2#4
  | .payloadTooLarge => 3#4
  | .fractionTooSmall => 4#4
  | .insufficientCapacity => 5#4
  | .messageExceedsCapacity => 6#4
  | .requestExceedsCapacity => 7#4
  | .truncatedHeader => 8#4
  | .truncatedPayload => 9#4
  | .shapeMismatch => 10#4
  | .invalidFraction => 11#4
  | .operandOutOfRange => 12#4
  | .illegalCommand => 13#4

/-- The STATUS register as it reads (R35): HERR [8], ERRCODE [7:4], TRUNC [3], ERR [2], DONE [1], BUSY [0], the rest 0. -/
def State.statusWord (s : State) : Word :=
  0#23 ++ BitVec.ofBool s.herr ++ s.errcode ++ BitVec.ofBool s.trunc ++ BitVec.ofBool s.err ++ BitVec.ofBool s.done ++
    BitVec.ofBool s.busy

/-- The `done` output, "equal to STATUS.DONE at all times" (R59). -/
def State.doneOutput (s : State) : Bit := s.done

/-- HERR ← 1 (R245). -/
def State.raiseHerr (s : State) : State := { s with herr := true }

/-- HERR ← 0 (R36). -/
def State.clearHerr (s : State) : State := { s with herr := false }

/-- What `issue(v)` of R241 does: the latch takes the word, BUSY ← 1, and DONE, ERR, TRUNC and ERRCODE ← 0. -/
def State.latchCommand (s : State) (v : Word) : State :=
  { s with latch := v, busy := true, done := false, err := false, trunc := false, errcode := 0#4 }

/-- The STATUS and latch effects that end `complete()` of R241, for an error code (0 on success) and a TRUNC value. -/
def State.finish (s : State) (code : BitVec 4) (cut : Bit) : State :=
  { s with err := code != 0#4, errcode := code, trunc := cut, busy := false, done := true, latch := 0#32 }

end Sys2Proof.Machine
end

