-- ==== Sys2Proof/Machine/Ops.lean ====
section
/-! DEFINITION. The shared operations: reading and writing the buffers (R15, R49 to R52, R56), the results of a command (R117), its completion (R241, R242), issue (R241) and reset (R271). -/

namespace Sys2Proof.Machine

/-- The canonical form of a buffer: indices strictly rising, so equal buffers are equal lists. -/
abbrev Memory.wf {α : Type} (m : Memory α) : Prop := m.Pairwise (fun a b => a.1 < b.1)

/-- Every written cell lies inside a buffer of `size` cells. -/
abbrev Memory.within {α : Type} (size : Nat) (m : Memory α) : Prop := ∀ c ∈ m, c.1 < size

/-- The value written to cell `i`, or nothing if it has not been written since reset. -/
def Memory.find {α : Type} : Memory α → Nat → Option α
  | [], _ => none
  | (k, v) :: m, i => if k = i then some v else Memory.find m i

/-- A sequence as consecutive cells from index `i`. -/
def Memory.cells {α : Type} (i : Nat) : List α → Memory α
  | [] => []
  | v :: vs => (i, v) :: Memory.cells (i + 1) vs

/-- `MemWrite(SPACE, i, n, v)` with n = |v| (R15): cells i to i + n − 1 take the sequence, every other cell keeps its value. -/
def Memory.write {α : Type} (m : Memory α) (i : Nat) (vs : List α) : Memory α :=
  m.filter (fun c => c.1 < i) ++ Memory.cells i vs ++ m.filter (fun c => i + vs.length ≤ c.1)

/-- `MemRead(SPACE, i, n)` (R15), for a buffer given by its cells. -/
def readCells {α : Type} (cell : Nat → α) (i n : Nat) : List α := (List.range n).map (fun k => cell (i + k))

/-- IBUF[i]: the value written, else the free value of the last reset (R49, R56). -/
def State.ibufAt (s : State) (i : Nat) : Byte := (Memory.find s.ibuf i).getD (Config.resetIbuf s.epoch i)

/-- CBUF[i] (R50, R56). -/
def State.cbufAt (s : State) (i : Nat) : Byte := (Memory.find s.cbuf i).getD (Config.resetCbuf s.epoch i)

/-- BBUF[i] (R51, R56). -/
def State.bbufAt (s : State) (i : Nat) : Bit := (Memory.find s.bbuf i).getD (Config.resetBbuf s.epoch i)

/-- OBUF[i] (R52, R56). -/
def State.obufAt (s : State) (i : Nat) : Byte := (Memory.find s.obuf i).getD (Config.resetObuf s.epoch i)

/-- Which buffer a command writes, and what: BBUF and BLEN, OBUF and OLEN, or neither (R99, R117). -/
inductive Destination where
  | none
  | bbuf (bits : List Bit)
  | obuf (bytes : List Byte)
  deriving DecidableEq, Repr

/-- What a successful command writes (R117): its destination from index 0 and the destination's length register, RESULT, and
whether a prefix cut was made, `Ok(writes, cut)` of R241. -/
structure Writes where
  dest : Destination
  result : Nat
  cut : Bit
  deriving DecidableEq, Repr

/-- The outcome of a family rule: the error it raises, or what it writes (R241). -/
abbrev Result := Except ErrorCode Writes

/-- Write the destination buffer and its length register; cells beyond the new length keep their values (R44, R45, R52, R283). -/
def State.writeDest (s : State) : Destination → State
  | .none => s
  | .bbuf bits => { s with bbuf := Memory.write s.bbuf 0 bits, blen := BitVec.ofNat 32 bits.length }
  | .obuf bytes => { s with obuf := Memory.write s.obuf 0 bytes, olen := BitVec.ofNat 32 bytes.length }

/-- RESULT ← zext_64(r) (R46, R117). -/
def State.writeResult (s : State) (r : Nat) : State := { s with result := BitVec.ofNat 64 r }

/-- "apply writes" of R241. -/
def State.applyWrites (s : State) (w : Writes) : State := (s.writeDest w.dest).writeResult w.result

/-- `complete()` of R241 from the outcome of the decoded command: an error writes only STATUS (R242), a success applies its
writes; either way BUSY ← 0, DONE ← 1 and the latch is cleared. This is the block's only reporting of an error. -/
def State.complete (s : State) : Result → State
  | .error e => s.finish e.code false
  | .ok w => (s.applyWrites w).finish 0#4 w.cut

/-- `issue(v)` of R241. It also draws the command's LATENCY (R9, R285, log 4). -/
def State.issue (s : State) (v : Word) : State :=
  { s.latchCommand v with wait := Config.latency s.draws, draws := s.draws + 1 }

/-- The `Reset` transaction (R270, R271): every register as R55 says, every cell a new free value. A command in flight is
abandoned (R272). The host and the configuration are not part of the block and stay. -/
def State.resetBlock (s : State) : State :=
  { State.reset with
    params := s.params, epoch := s.epoch + 1, draws := s.draws, host := s.host, replies := s.replies }

end Sys2Proof.Machine
end

