-- ==== Sys2Proof/Machine/Operands.lean ====
section
/-! DEFINITION. Operand assembly (R117): the sequences a command reads from its buffers, and the length and shape checks made on them first (R243). -/

namespace Sys2Proof.Machine

/-- ILEN > IBUF_SIZE (R243). -/
def State.ilenTooLarge (s : State) : Bool := decide (s.params.ibufSize < s.ilen.toNat)

/-- BLEN > BBUF_SIZE (R243). -/
def State.blenTooLarge (s : State) : Bool := decide (s.params.bbufSize < s.blen.toNat)

/-- CLEN > CBUF_SIZE (R243). -/
def State.clenTooLarge (s : State) : Bool := decide (s.params.cbufSize < s.clen.toNat)

/-- The data or message operand, IBUF[0..ILEN) (R49, R117). -/
def State.message (s : State) : List Byte := readCells s.ibufAt 0 s.ilen.toNat

/-- The bit-sequence operand, BBUF[0..BLEN) (R51, R117). -/
def State.bits (s : State) : List Bit := readCells s.bbufAt 0 s.blen.toNat

/-- The cover or stego operand, CBUF[0..CLEN) (R50, R117). -/
def State.pixels (s : State) : List Byte := readCells s.cbufAt 0 s.clen.toNat

/-- W·H·3, exact (R12, R43). -/
def State.pixelCount (s : State) : Nat := s.width.toNat * s.height.toNat * Config.channels

/-- CLEN ≠ W·H·3 (R213, R243). -/
def State.shapeDiffers (s : State) : Bool := s.clen.toNat != s.pixelCount

/-- The fraction operand is not in (0, 1]: den = 0, num = 0 or num > den (R190, R197). -/
def State.fractionInvalid (s : State) : Bool :=
  decide (s.fracDen.toNat = 0) || decide (s.fracNum.toNat = 0) || decide (s.fracDen.toNat < s.fracNum.toNat)

/-- The byte index of pixel (x, y), channel c, in an image of width `w` (R18). -/
def pixelIndex (w x y c : Nat) : Nat := (y * w + x) * Config.channels + c

end Sys2Proof.Machine
end

