-- ==== Sys2Proof/Machine/Capacity.lean ====
section
/-! DEFINITION. The capacity model: CAPACITY (R160) over capacity_bits (R161). -/

namespace Sys2Proof.Machine

/-- capacity_bits (R161): w·h·3·bpc, or UnsupportedDepth for every depth but 1 (R162). -/
def capacityBits (w h bpc : Nat) : Except ErrorCode Nat :=
  if bpc ≠ Config.bpcSupported then .error .unsupportedDepth else .ok (w * h * Config.channels * bpc)

/-- capacity_bits of the WIDTH, HEIGHT and BPC registers (R160). -/
def State.capacity (s : State) : Except ErrorCode Nat := capacityBits s.width.toNat s.height.toNat s.bpc.toNat

/-- The rule of CAPACITY (R160). -/
def capacityResult (s : State) : Result :=
  match s.capacity with
  | .error e => .error e
  | .ok c => .ok ⟨.none, c, false⟩

/-- CAPACITY (R160, R241). -/
def execCapacity (s : State) : Host.Outcome State Fault Refusal := .next (s.complete (capacityResult s))

end Sys2Proof.Machine
end

