-- ==== Sys2Proof/Machine/Embedding.lean ====
section
/-! DEFINITION. The embedding engine: EMBED (R210) over embed (R211). -/

namespace Sys2Proof.Machine

/-- `byte = (byte & 0xFE) | bit` (R211). -/
def setLowBit (c : Byte) (b : Bit) : Byte := (c &&& 0xFE#8) ||| (BitVec.ofBool b).setWidth 8

/-- embed (R211): the low bit of the first |bits| bytes replaced, in byte-index order (R214), the rest copied. -/
def embedBits : List Byte → List Bit → List Byte
  | c :: cover, b :: bits => setLowBit c b :: embedBits cover bits
  | cover, [] => cover
  | [], _ => []

/-- The rule of EMBED (R210), its checks in the order of R243: range, depth, shape, capacity. -/
def embedResult (s : State) : Result :=
  if s.clenTooLarge || s.blenTooLarge then .error .operandOutOfRange
  else match s.capacity with
    | .error e => .error e
    | .ok c =>
      if s.shapeDiffers then .error .shapeMismatch
      else if c < s.blen.toNat then .error .messageExceedsCapacity
      else .ok ⟨.obuf (embedBits s.pixels s.bits), s.blen.toNat, false⟩

/-- EMBED (R210, R241). It writes OBUF, never CBUF (R212). -/
def execEmbed (s : State) : Host.Outcome State Fault Refusal := .next (s.complete (embedResult s))

end Sys2Proof.Machine
end

