-- ==== Sys2Proof/Machine/Codec.lean ====
section
/-! DEFINITION. The BitStream codec: UNPACK (R140) and PACK (R141) over bytes_to_bits (R142) and bits_to_bytes (R143). -/

namespace Sys2Proof.Machine

/-- byte_bits, bit 7 first (R16). -/
def byteBits (b : Byte) : List Bit :=
  [b.getLsbD 7, b.getLsbD 6, b.getLsbD 5, b.getLsbD 4, b.getLsbD 3, b.getLsbD 2, b.getLsbD 1, b.getLsbD 0]

/-- bytes_to_bits = concat_map(byte_bits, d) (R142). -/
def bytesToBits (d : List Byte) : List Bit := d.flatMap byteBits

/-- Each consecutive group of 8 bits packed MSB first into one byte; a shorter rest gives no byte (R143). -/
def packGroups : List Bit → List Byte
  | b0 :: b1 :: b2 :: b3 :: b4 :: b5 :: b6 :: b7 :: rest =>
    BitVec.ofNat 8 (b0.toNat * 128 + b1.toNat * 64 + b2.toNat * 32 + b3.toNat * 16 + b4.toNat * 8 + b5.toNat * 4 +
      b6.toNat * 2 + b7.toNat) :: packGroups rest
  | _ => []

/-- bits_to_bytes (R143). -/
def bitsToBytes (b : List Bit) : Except ErrorCode (List Byte) :=
  if b.length % 8 ≠ 0 then .error .invalidLength else .ok (packGroups b)

/-- The rule of UNPACK (R140). -/
def unpackResult (s : State) : Result :=
  if s.ilenTooLarge then .error .operandOutOfRange
  else .ok ⟨.bbuf (bytesToBits s.message), 8 * s.ilen.toNat, false⟩

/-- The rule of PACK (R141): the length check of bits_to_bytes is its second check. -/
def packResult (s : State) : Result :=
  if s.blenTooLarge then .error .operandOutOfRange
  else match bitsToBytes s.bits with
    | .error e => .error e
    | .ok bytes => .ok ⟨.obuf bytes, s.blen.toNat / 8, false⟩

/-- UNPACK (R140, R241). -/
def execUnpack (s : State) : Host.Outcome State Fault Refusal := .next (s.complete (unpackResult s))

/-- PACK (R141, R241). -/
def execPack (s : State) : Host.Outcome State Fault Refusal := .next (s.complete (packResult s))

end Sys2Proof.Machine
end

