-- ==== Sys2Proof/Machine/Framing.lean ====
section
/-! DEFINITION. Payload framing: FRAME (R170) and PARSE (R171) over build_frame (R172) and parse_frame (R173). -/

namespace Sys2Proof.Machine

/-- be32(L) = [L[31:24], L[23:16], L[15:8], L[7:0]] (R17). -/
def be32 (n : Nat) : List Byte :=
  [BitVec.ofNat 8 (n / 2 ^ 24), BitVec.ofNat 8 (n / 2 ^ 16), BitVec.ofNat 8 (n / 2 ^ 8), BitVec.ofNat 8 n]

/-- from_be32, on the four bytes it is defined for (R17). -/
def fromBe32 : List Byte → Nat
  | [b0, b1, b2, b3] => b0.toNat * 2 ^ 24 + b1.toNat * 2 ^ 16 + b2.toNat * 2 ^ 8 + b3.toNat
  | _ => 0

/-- The value of a bit sequence, most significant bit first: the sum of b[i]·2^(|b| − 1 − i) (R173). -/
def bitsValue (b : List Bit) : Nat := b.foldl (fun acc x => 2 * acc + x.toNat) 0

/-- build_frame (R172): the big-endian length, then the message, as bits. -/
def buildFrame (msg : List Byte) : Except ErrorCode (List Bit) :=
  if Config.maxMsgLen < msg.length then .error .payloadTooLarge else .ok (bytesToBits (be32 msg.length ++ msg))

/-- The number of bits in a frame of `n` message bytes, 32 + 8n (R172). -/
def frameBits (n : Nat) : Nat := Config.hdrBits + 8 * n

/-- parse_frame (R173). The payload's 8L bits are a multiple of 8, so packing them cannot fail; bits after them are ignored
(R175). -/
def parseFrame (b : List Bit) : Except ErrorCode (Nat × List Byte) :=
  if b.length < Config.hdrBits then .error .truncatedHeader
  else if b.length < frameBits (bitsValue (b.take Config.hdrBits)) then .error .truncatedPayload
  else .ok (bitsValue (b.take Config.hdrBits),
    packGroups ((b.drop Config.hdrBits).take (8 * bitsValue (b.take Config.hdrBits))))

/-- The rule of FRAME (R170). -/
def frameResult (s : State) : Result :=
  if s.ilenTooLarge then .error .operandOutOfRange
  else match buildFrame s.message with
    | .error e => .error e
    | .ok bits => .ok ⟨.bbuf bits, s.ilen.toNat, false⟩

/-- The rule of PARSE (R171). -/
def parseResult (s : State) : Result :=
  if s.blenTooLarge then .error .operandOutOfRange
  else match parseFrame s.bits with
    | .error e => .error e
    | .ok (len, payload) => .ok ⟨.obuf payload, len, false⟩

/-- FRAME (R170, R241). -/
def execFrame (s : State) : Host.Outcome State Fault Refusal := .next (s.complete (frameResult s))

/-- PARSE (R171, R241). -/
def execParse (s : State) : Host.Outcome State Fault Refusal := .next (s.complete (parseResult s))

end Sys2Proof.Machine
end

