-- ==== Sys2Proof/Machine/Extraction.lean ====
section
/-! DEFINITION. The extraction engine: EXTHDR (R220) and EXTMSG (R221) over extract_header (R222) and extract_message (R223). -/

namespace Sys2Proof.Machine

/-- lsbs(s, n): the low bits of the first n bytes in canonical order (R222). -/
def lsbs (stego : List Byte) (n : Nat) : List Bit := (stego.take n).map (fun b => b.getLsbD 0)

/-- extract_header (R222). -/
def extractHeader (stego : List Byte) : Except ErrorCode Nat :=
  if stego.length < Config.hdrBits then .error .truncatedHeader
  else .ok (fromBe32 (packGroups (lsbs stego Config.hdrBits)))

/-- extract_message (R223): the header scan, the capacity check, then an independent scan from position 0 (R225). -/
def extractMessage (stego : List Byte) (c : Nat) : Except ErrorCode (List Byte) :=
  match extractHeader stego with
  | .error e => .error e
  | .ok len =>
    if c < frameBits len then .error .requestExceedsCapacity
    else match parseFrame (lsbs stego (frameBits len)) with
      | .error e => .error e
      | .ok (_, payload) => .ok payload

/-- The rule of EXTHDR (R220), its checks in the order of R243. -/
def exthdrResult (s : State) : Result :=
  if s.clenTooLarge then .error .operandOutOfRange
  else match s.capacity with
    | .error e => .error e
    | .ok _ =>
      if s.shapeDiffers then .error .shapeMismatch
      else match extractHeader s.pixels with
        | .error e => .error e
        | .ok len => .ok ⟨.none, len, false⟩

/-- The rule of EXTMSG (R221), its checks in the order of R243. -/
def extmsgResult (s : State) : Result :=
  if s.clenTooLarge then .error .operandOutOfRange
  else match s.capacity with
    | .error e => .error e
    | .ok c =>
      if s.shapeDiffers then .error .shapeMismatch
      else match extractMessage s.pixels c with
        | .error e => .error e
        | .ok payload => .ok ⟨.obuf payload, payload.length, false⟩

/-- EXTHDR (R220, R241). -/
def execExthdr (s : State) : Host.Outcome State Fault Refusal := .next (s.complete (exthdrResult s))

/-- EXTMSG (R221, R241). -/
def execExtmsg (s : State) : Host.Outcome State Fault Refusal := .next (s.complete (extmsgResult s))

end Sys2Proof.Machine
end

