-- ==== Sys2Proof/Machine/Truncation.lean ====
section
/-! DEFINITION. The truncation policy: ARBITRATE and ARBITRATE.F (R190) over max_bits (R191) and arbitrate (R192). -/

namespace Sys2Proof.Machine

/-- max_bits(C, num, den) = 8·((C·num div den) div 8) (R191). -/
def maxBits (c num den : Nat) : Nat := 8 * (c * num / den / 8)

/-- arbitrate with no fraction given (R192): "the full frame must fit in C". -/
def arbitrateWhole (c : Nat) (msg : List Byte) : Except ErrorCode (List Byte × Bit) :=
  if c < frameBits msg.length then .error .payloadTooLarge else .ok (msg, false)

/-- arbitrate with a fraction given, for the budget `mb` = max_bits (R192): refuse a budget below 40, keep a message whose frame
fits, else keep the prefix that fits (R193). The InsufficientCapacity check is kept as the source states it (R194). -/
def arbitrateBudget (mb : Nat) (msg : List Byte) : Except ErrorCode (List Byte × Bit) :=
  if mb < Config.minFracBits then .error .fractionTooSmall
  else if frameBits msg.length ≤ mb then .ok (msg, false)
  else if (mb - Config.hdrBits) / 8 ≤ 0 then .error .insufficientCapacity
  else .ok (msg.take ((mb - Config.hdrBits) / 8), true)

/-- The end of ARBITRATE's rule: frame the final message; RESULT is its length and TRUNC the cut (R190). -/
def frameFinal : Except ErrorCode (List Byte × Bit) → Result
  | .error e => .error e
  | .ok (final, cut) =>
    match buildFrame final with
    | .error e => .error e
    | .ok bits => .ok ⟨.bbuf bits, final.length, cut⟩

/-- The rule of ARBITRATE with F = 0. Depth and CLEN are not read (R190, R196). -/
def arbitrateResult (s : State) : Result :=
  if s.ilenTooLarge then .error .operandOutOfRange
  else frameFinal (arbitrateWhole s.pixelCount s.message)

/-- The rule of ARBITRATE with F = 1 (R190, R197). -/
def arbitrateFResult (s : State) : Result :=
  if s.ilenTooLarge then .error .operandOutOfRange
  else if s.fractionInvalid then .error .invalidFraction
  else frameFinal (arbitrateBudget (maxBits s.pixelCount s.fracNum.toNat s.fracDen.toNat) s.message)

/-- ARBITRATE, no fraction given (R190, R241). -/
def execArbitrate (s : State) : Host.Outcome State Fault Refusal := .next (s.complete (arbitrateResult s))

/-- ARBITRATE.F, the fraction given (R190, R241). -/
def execArbitrateF (s : State) : Host.Outcome State Fault Refusal := .next (s.complete (arbitrateFResult s))

end Sys2Proof.Machine
end

