-- ==== Sys2Proof/Machine/Dispatch.lean ====
section
/-! DEFINITION. One arm for each command: the completion step of the decoded command (R241). -/

namespace Sys2Proof.Machine

def exec (i : Instr) (s : State) : Host.Outcome State Fault Refusal :=
  match i with
  | .unpack => Sys2Proof.Machine.execUnpack s
  | .pack => Sys2Proof.Machine.execPack s
  | .capacity => Sys2Proof.Machine.execCapacity s
  | .frame => Sys2Proof.Machine.execFrame s
  | .parse => Sys2Proof.Machine.execParse s
  | .arbitrate => Sys2Proof.Machine.execArbitrate s
  | .arbitrateF => Sys2Proof.Machine.execArbitrateF s
  | .embed => Sys2Proof.Machine.execEmbed s
  | .exthdr => Sys2Proof.Machine.execExthdr s
  | .extmsg => Sys2Proof.Machine.execExtmsg s

end Sys2Proof.Machine
end

