-- ==== Sys2Proof/Machine/HostAccess.lean ====
section
/-! DEFINITION. Host transactions: the address map (R81), register access (R32 to R48, R82), buffer access (R83), access errors (R84, R245) and access while busy (R85). -/

namespace Sys2Proof.Machine

/-- The offset of a register from the region base (R32). -/
def Register.offset : Register → Nat
  | .id => 0x00
  | .cmd => 0x04
  | .status => 0x08
  | .width => 0x0C
  | .height => 0x10
  | .bpc => 0x14
  | .fracNum => 0x18
  | .fracDen => 0x1C
  | .ilen => 0x20
  | .clen => 0x24
  | .blen => 0x28
  | .olen => 0x2C
  | .resultLo => 0x30
  | .resultHi => 0x34
  | .ibufSize => 0x38
  | .cbufSize => 0x3C
  | .bbufSize => 0x40
  | .obufSize => 0x44

/-- The register at an offset; none at a reserved or unaligned offset (R32, R48). -/
def Register.atOffset : Nat → Option Register
  | 0x00 => some .id
  | 0x04 => some .cmd
  | 0x08 => some .status
  | 0x0C => some .width
  | 0x10 => some .height
  | 0x14 => some .bpc
  | 0x18 => some .fracNum
  | 0x1C => some .fracDen
  | 0x20 => some .ilen
  | 0x24 => some .clen
  | 0x28 => some .blen
  | 0x2C => some .olen
  | 0x30 => some .resultLo
  | 0x34 => some .resultHi
  | 0x38 => some .ibufSize
  | 0x3C => some .cbufSize
  | 0x40 => some .bbufSize
  | 0x44 => some .obufSize
  | _ => none

/-- The base address of a buffer window (R81). -/
def Buffer.base : Buffer → Nat
  | .ibuf => 0x10000000
  | .cbuf => 0x20000000
  | .bbuf => 0x30000000
  | .obuf => 0x40000000

/-- SIZE of a buffer (R9). -/
def Buffer.size (p : Config.Params) : Buffer → Nat
  | .ibuf => p.ibufSize
  | .cbuf => p.cbufSize
  | .bbuf => p.bbufSize
  | .obuf => p.obufSize

/-- The buffer whose window is number `n` of the 2^28-byte windows (R81). -/
def Buffer.ofWindow : Nat → Option Buffer
  | 1 => some .ibuf
  | 2 => some .cbuf
  | 3 => some .bbuf
  | 4 => some .obuf
  | _ => none

/-- What a legal access reaches. -/
inductive Target where
  | reg (r : Register)
  | cell (b : Buffer) (i : Nat)
  deriving DecidableEq, Repr

/-- A register access: size 4 at a register's offset. Offsets of registers are 4-aligned (R82). -/
def regTarget (offset : Nat) : Size → Option Target
  | .four => (Register.atOffset offset).map .reg
  | .one => none
  | .two => none

/-- A buffer access: size 1 at an index below SIZE (R83, R84). -/
def cellTarget (p : Config.Params) (window i : Nat) : Size → Option Target
  | .one => (Buffer.ofWindow window).bind (fun b => if i < b.size p then some (.cell b i) else none)
  | .two => none
  | .four => none

/-- The address map (R81): what an access of this address and size reaches, none for an access error (R82 to R84, R245 (a) to
(c)). Window 0 is the register region, whose addresses from 0x100 up hold no register and are unmapped. -/
def target (p : Config.Params) (addr : Word) (size : Size) : Option Target :=
  if addr.toNat / 2 ^ 28 = 0 then regTarget addr.toNat size
  else cellTarget p (addr.toNat / 2 ^ 28) (addr.toNat % 2 ^ 28) size

/-- ID reads this constant (R33). -/
def idWord : Word := 0x4C534231#32

/-- The value of a register read with BUSY = 0 (R33 to R47). -/
def State.readRegister (s : State) : Register → Word
  | .id => idWord
  | .cmd => 0#32
  | .status => s.statusWord
  | .width => s.width.setWidth 32
  | .height => s.height.setWidth 32
  | .bpc => s.bpc
  | .fracNum => s.fracNum
  | .fracDen => s.fracDen
  | .ilen => s.ilen
  | .clen => s.clen
  | .blen => s.blen
  | .olen => s.olen
  | .resultLo => s.result.extractLsb' 0 32
  | .resultHi => s.result.extractLsb' 32 32
  | .ibufSize => BitVec.ofNat 32 s.params.ibufSize
  | .cbufSize => BitVec.ofNat 32 s.params.cbufSize
  | .bbufSize => BitVec.ofNat 32 s.params.bbufSize
  | .obufSize => BitVec.ofNat 32 s.params.obufSize

/-- The registers that read their true value while BUSY = 1 (R85). -/
def Register.exactWhileBusy : Register → Bool
  | .id | .cmd | .status | .ibufSize | .cbufSize | .bbufSize | .obufSize => true
  | .width | .height | .bpc | .fracNum | .fracDen | .ilen | .clen | .blen | .olen | .resultLo | .resultHi => false

/-- The host-writable registers (R32). -/
def Register.writable : Register → Bool
  | .cmd | .status | .width | .height | .bpc | .fracNum | .fracDen | .ilen | .clen | .blen => true
  | .id | .olen | .resultLo | .resultHi | .ibufSize | .cbufSize | .bbufSize | .obufSize => false

/-- A write to STATUS: bit 8 clears HERR, every other bit is ignored (R36). -/
def State.writeStatus (s : State) (v : Word) : State := if v.getLsbD 8 then s.clearHerr else s

/-- A write of a writable register while BUSY = 0 (R34, R36 to R44). The registers that are not writable do not come here. -/
def State.writeRegister (s : State) (r : Register) (v : Word) : State :=
  match r with
  | .cmd => s.issue v
  | .status => s.writeStatus v
  | .width => { s with width := v.setWidth 16 }
  | .height => { s with height := v.setWidth 16 }
  | .bpc => { s with bpc := v }
  | .fracNum => { s with fracNum := v }
  | .fracDen => { s with fracDen := v }
  | .ilen => { s with ilen := v }
  | .clen => { s with clen := v }
  | .blen => { s with blen := v }
  | .id | .olen | .resultLo | .resultHi | .ibufSize | .cbufSize | .bbufSize | .obufSize => s

/-- The value of a buffer cell as a read returns it; a BBUF cell is 0x00 or 0x01 (R83). -/
def State.readCell (s : State) (b : Buffer) (i : Nat) : Byte :=
  match b with
  | .ibuf => s.ibufAt i
  | .cbuf => s.cbufAt i
  | .bbuf => (BitVec.ofBool (s.bbufAt i)).setWidth 8
  | .obuf => s.obufAt i

/-- The host-writable buffers: OBUF is read only (R52). -/
def Buffer.writable : Buffer → Bool
  | .ibuf | .cbuf | .bbuf => true
  | .obuf => false

/-- A write of one cell while BUSY = 0; BBUF keeps v[0] (R51, R83). OBUF does not come here. -/
def State.writeCell (s : State) (b : Buffer) (i : Nat) (v : Byte) : State :=
  match b with
  | .ibuf => { s with ibuf := Memory.write s.ibuf i [v] }
  | .cbuf => { s with cbuf := Memory.write s.cbuf i [v] }
  | .bbuf => { s with bbuf := Memory.write s.bbuf i [v.getLsbD 0] }
  | .obuf => s

/-- The free value of draw `n` for a read of this cell while BUSY = 1: 0x00 or 0x01 for BBUF, any Byte else (R85). -/
def busyCell (b : Buffer) (n : Nat) : Byte :=
  match b with
  | .bbuf => (BitVec.ofBool (Config.busyBit n)).setWidth 8
  | .ibuf | .cbuf | .obuf => Config.busyByte n

/-- The host receives the value of a read. -/
def State.reply (s : State) (v : Word) : State := { s with replies := v :: s.replies }

/-- One free value has been drawn. -/
def State.countDraw (s : State) : State := { s with draws := s.draws + 1 }

/-- A read of a register (R82, R85): exact, or a free value while BUSY = 1. -/
def State.readRegisterAccess (s : State) (r : Register) : State :=
  if s.busy && !r.exactWhileBusy then (s.countDraw).reply (Config.busyWord s.draws) else s.reply (s.readRegister r)

/-- A read of a cell (R83, R85): exact, or a free value while BUSY = 1. -/
def State.readCellAccess (s : State) (b : Buffer) (i : Nat) : State :=
  if s.busy then (s.countDraw).reply ((busyCell b s.draws).setWidth 32) else s.reply ((s.readCell b i).setWidth 32)

/-- `HostRead(addr, size)` (R80): an access error returns 0 and sets HERR (R82 to R84). -/
def State.hostRead (s : State) (addr : Word) (size : Size) : State :=
  match target s.params addr size with
  | none => s.raiseHerr.reply 0#32
  | some (.reg r) => s.readRegisterAccess r
  | some (.cell b i) => s.readCellAccess b i

/-- A write that reaches a register (R32, R36, R85): STATUS always, another writable one while BUSY = 0, else HERR. -/
def State.writeRegisterAccess (s : State) (r : Register) (v : Word) : State :=
  if r = .status then s.writeStatus v
  else if r.writable && !s.busy then s.writeRegister r v
  else s.raiseHerr

/-- A write that reaches a cell (R52, R83, R85): a writable buffer while BUSY = 0, else HERR. -/
def State.writeCellAccess (s : State) (b : Buffer) (i : Nat) (v : Byte) : State :=
  if b.writable && !s.busy then s.writeCell b i v else s.raiseHerr

/-- `HostWrite(addr, size, v)` (R80): an access error is ignored and sets HERR (R82 to R84). -/
def State.hostWrite (s : State) (addr : Word) (size : Size) (v : Word) : State :=
  match target s.params addr size with
  | none => s.raiseHerr
  | some (.reg r) => s.writeRegisterAccess r v
  | some (.cell b i) => s.writeCellAccess b i (v.setWidth 8)

/-- One host transaction, total (R80). -/
def State.transact (s : State) : Transaction → State
  | .read addr size => s.hostRead addr size
  | .write addr size v => s.hostWrite addr size v
  | .reset => s.resetBlock

/-- The last value the host read; 0 before its first read (log 5). -/
def State.lastReply (s : State) : Word :=
  match s.replies with
  | [] => 0#32
  | v :: _ => v

/-- The address of STATUS (R32, R81). -/
def statusAddr : Word := 0x08#32

/-- One operation of the host's program, with `rest` the program after it. `wait` reads STATUS and stays in front until the
value read has bit 0 (BUSY) = 0 (R120); `writeBack` writes the byte last read (R120, `copyout`). -/
def State.hostOp (s : State) (op : HostOp) (rest : List HostOp) : State :=
  match op with
  | .txn t => { s.transact t with host := rest }
  | .wait =>
    { s.hostRead statusAddr .four with
      host := if (s.hostRead statusAddr .four).lastReply.getLsbD 0 then .wait :: rest else rest }
  | .writeBack addr => { s.hostWrite addr .one s.lastReply with host := rest }

/-- The host's next operation, in program order (R92). With none left the block is idle and keeps all its state (R256). -/
def State.hostStep (s : State) : State :=
  match s.host with
  | [] => s
  | op :: rest => s.hostOp op rest

end Sys2Proof.Machine
end

