-- ==== Sys2Proof/Machine/Step.lean ====
section
/-! DEFINITION. One step of the machine: the completion of the latched command, or the host's next operation (R92, R93, R241). -/

namespace Sys2Proof.Machine

/-- The core's step (R241): decode the latch; an illegal word completes with code 13 (R114), a command runs. -/
def completeLatched (s : State) : Host.Outcome State Fault Refusal :=
  match decode s.latch with
  | .illegal _ => .next (s.complete (.error .illegalCommand))
  | .command i => exec i s

/-- One step. With BUSY = 1 and the countdown at 0 the core completes the command; with BUSY = 1 and the countdown above 0 it
goes down by one and the host does its next operation; with BUSY = 0 the host does its next operation (R93, log 4, log 6). -/
def step (s : State) : Host.Outcome State Fault Refusal :=
  if s.busy then
    match s.wait with
    | 0 => completeLatched s
    | k + 1 => .next (State.hostStep { s with wait := k })
  else .next s.hostStep

/-- `s` with the word in the command latch as an issue leaves it (R241), to be completed by the very next step (log 7). -/
def State.withFetchWord (s : State) (nbits w : Nat) : State :=
  { s.latchCommand (BitVec.ofNat 32 (w % 2 ^ nbits)) with wait := 0 }

/-- "A host program has run to its end": its last operation is done and BUSY = 0 (R286). -/
def State.runEnded (s : State) : Bool := s.host.isEmpty && !s.busy

end Sys2Proof.Machine
end

