-- ==== Sys2Proof/Machine/Assembler.lean ====
section
/-! DEFINITION. The host assembler: its machine instructions (R119), its pseudo-instructions and their expansions (R120), the encoding of a program (R121), and reading a line of source. -/

namespace Sys2Proof.Machine

/-- A line of a host program (R119, R120). A string operand stands as its bytes. -/
inductive HostInstr where
  | wr (r : Register) (imm : Word)
  | rd (r : Register)
  | wrb (b : Buffer) (idx : Nat) (imm : Byte)
  | rdb (b : Buffer) (idx : Nat)
  | cmd (i : Instr)
  | wait
  | run (i : Instr)
  | fill (b : Buffer) (idx : Nat) (bytes : List Byte)
  | fillrep (b : Buffer) (idx n : Nat) (v : Byte)
  /-- R120 gives it for BBUF; any other buffer is the model's choice (DESIGN CHOICE, log 14) -/
  | fillbits (b : Buffer) (idx : Nat) (bits : List Bit)
  | copyout (n : Nat)
  | clrherr
  deriving DecidableEq, Repr

/-- The address of a buffer cell, base(SPACE) + idx (R119). -/
def cellAddr (b : Buffer) (idx : Nat) : Word := BitVec.ofNat 32 (b.base + idx)

/-- `wr NAME, imm32` (R119). -/
def wrTxn (r : Register) (imm : Word) : HostOp := .txn (.write (BitVec.ofNat 32 r.offset) .four imm)

/-- `rd NAME` (R119). -/
def rdTxn (r : Register) : HostOp := .txn (.read (BitVec.ofNat 32 r.offset) .four)

/-- `wrb SPACE[idx], imm8` (R119). -/
def wrbTxn (b : Buffer) (idx : Nat) (imm : Byte) : HostOp := .txn (.write (cellAddr b idx) .one (imm.setWidth 32))

/-- `rdb SPACE[idx]` (R119). -/
def rdbTxn (b : Buffer) (idx : Nat) : HostOp := .txn (.read (cellAddr b idx) .one)

/-- `cmd MNEMONIC` (R119). -/
def cmdTxn (i : Instr) : HostOp := wrTxn .cmd (encode i)

/-- One `wrb` for each byte, at consecutive cells (R120, `fill`). -/
def fillTxns (b : Buffer) : Nat → List Byte → List HostOp
  | _, [] => []
  | idx, v :: vs => wrbTxn b idx v :: fillTxns b (idx + 1) vs

/-- `rdb OBUF[j]` giving t, then `wrb CBUF[j], t` (R120, `copyout`). -/
def copyPair (j : Nat) : List HostOp := [rdbTxn .obuf j, .writeBack (cellAddr .cbuf j)]

/-- The expansion of a line (R119, R120). -/
def HostInstr.expand : HostInstr → List HostOp
  | .wr r imm => [wrTxn r imm]
  | .rd r => [rdTxn r]
  | .wrb b idx imm => [wrbTxn b idx imm]
  | .rdb b idx => [rdbTxn b idx]
  | .cmd i => [cmdTxn i]
  | .wait => [.wait]
  | .run i => [cmdTxn i, .wait]
  | .fill b idx bytes => fillTxns b idx bytes
  | .fillrep b idx n v => fillTxns b idx (List.replicate n v)
  | .fillbits b idx bits => fillTxns b idx (bits.map (fun x => (BitVec.ofBool x).setWidth 8))
  | .copyout n => (List.range n).flatMap copyPair
  | .clrherr => [wrTxn .status 0x00000100#32]

/-- A host program as the list of its operations, in program order (R121). -/
def assemble (p : List HostInstr) : List HostOp := p.flatMap HostInstr.expand

/-- `s` with a host program to run. -/
def State.withProgram (s : State) (p : List HostInstr) : State := { s with host := assemble p }

/-! Reading source text (R119): one instruction a line, `;` starts a comment, immediates decimal or `0x` hexadecimal, a string
stands for its ASCII bytes. -/

/-- The part of a line before its comment; a `;` inside a string starts none. -/
def stripComment (quoted : Bool) : List Char → List Char
  | [] => []
  | c :: cs =>
    if c = '"' then c :: stripComment (!quoted) cs
    else if c = ';' && !quoted then []
    else c :: stripComment quoted cs

/-- A token of a line: a word (a name, a mnemonic or a number) or a string. Commas, brackets and blanks separate words. -/
inductive Token where
  | word (cs : List Char)
  | text (cs : List Char)
  deriving DecidableEq, Repr

/-- The word read so far, if there is one, in front of the tokens after it. -/
def endWord (w : List Char) (ts : List Token) : List Token := if w.isEmpty then ts else .word w.reverse :: ts

/-- The characters that separate words. -/
def isSeparator (c : Char) : Bool := c = ' ' || c = ',' || c = '[' || c = ']' || c = '\t'

/-- The tokens of a line; `quoted` holds inside a string, `w` is the word or string read so far, last character first. -/
def tokens : (quoted : Bool) → (w : List Char) → List Char → List Token
  | false, w, [] => endWord w []
  | true, w, [] => [.text w.reverse]
  | true, w, c :: cs => if c = '"' then .text w.reverse :: tokens false [] cs else tokens true (c :: w) cs
  | false, w, c :: cs =>
    if c = '"' then endWord w (tokens true [] cs)
    else if isSeparator c then endWord w (tokens false [] cs)
    else tokens false (c :: w) cs

/-- The value of a digit below `radix`. -/
def digit (radix : Nat) (c : Char) : Option Nat :=
  let v :=
    if '0' ≤ c && c ≤ '9' then c.toNat - '0'.toNat
    else if 'a' ≤ c && c ≤ 'f' then c.toNat - 'a'.toNat + 10
    else if 'A' ≤ c && c ≤ 'F' then c.toNat - 'A'.toNat + 10
    else radix
  if v < radix then some v else none

/-- The value of a digit string after the value `acc`. -/
def digits (radix acc : Nat) : List Char → Option Nat
  | [] => some acc
  | c :: cs => (digit radix c).bind (fun d => digits radix (acc * radix + d) cs)

/-- An immediate: decimal, or hexadecimal with a `0x` prefix (R119). -/
def number : List Char → Option Nat
  | '0' :: 'x' :: c :: cs => digits 16 0 (c :: cs)
  | c :: cs => digits 10 0 (c :: cs)
  | [] => none

/-- The registers by name (R32). -/
def registerNames : List (String × Register) :=
  [("ID", .id), ("CMD", .cmd), ("STATUS", .status), ("WIDTH", .width), ("HEIGHT", .height), ("BPC", .bpc),
    ("FRAC_NUM", .fracNum), ("FRAC_DEN", .fracDen), ("ILEN", .ilen), ("CLEN", .clen), ("BLEN", .blen), ("OLEN", .olen),
    ("RESULT_LO", .resultLo), ("RESULT_HI", .resultHi), ("IBUF_SIZE", .ibufSize), ("CBUF_SIZE", .cbufSize),
    ("BBUF_SIZE", .bbufSize), ("OBUF_SIZE", .obufSize)]

/-- The buffers by name (R119). -/
def bufferNames : List (String × Buffer) := [("IBUF", .ibuf), ("CBUF", .cbuf), ("BBUF", .bbuf), ("OBUF", .obuf)]

/-- The commands by mnemonic (R119). -/
def mnemonics : List (String × Instr) :=
  [("UNPACK", .unpack), ("PACK", .pack), ("CAPACITY", .capacity), ("FRAME", .frame), ("PARSE", .parse),
    ("ARBITRATE", .arbitrate), ("ARBITRATE.F", .arbitrateF), ("EMBED", .embed), ("EXTHDR", .exthdr), ("EXTMSG", .extmsg)]

/-- The entry of a name in a table. -/
def named {α : Type} (table : List (String × α)) (w : List Char) : Option α :=
  (table.find? (fun e => e.1.toList = w)).map Prod.snd

/-- A number that fits `bits` bits. -/
def immediate (bits : Nat) (w : List Char) : Option (BitVec bits) :=
  (number w).bind (fun n => if n < 2 ^ bits then some (BitVec.ofNat bits n) else none)

/-- Immediate bytes. -/
def byteList : List Token → Option (List Byte)
  | [] => some []
  | .word w :: ts => (immediate 8 w).bind (fun v => (byteList ts).map (v :: ·))
  | .text _ :: _ => none

/-- A string as its ASCII bytes (R119). A character that is not ASCII has none. -/
def asciiBytes (cs : List Char) : Option (List Byte) :=
  if cs.all (fun c => c.toNat < 128) then some (cs.map (fun c => BitVec.ofNat 8 c.toNat)) else none

/-- The bits of a string of 0 and 1 (R120, `fillbits`). -/
def bitList : List Char → Option (List Bit)
  | [] => some []
  | c :: cs =>
    if c = '0' then (bitList cs).map (false :: ·) else if c = '1' then (bitList cs).map (true :: ·) else none

/-- The operand bytes of `fill`: a string, or one or more immediates (R120). -/
def fillBytes : List Token → Option (List Byte)
  | [.text cs] => asciiBytes cs
  | .word w :: ts => byteList (.word w :: ts)
  | _ => none

/-- The instruction of an operation name and its operands (R119, R120). `fillbits` with a SPACE other than BBUF, of which R120 does
not speak, is read like BBUF, as a `wrb` of 0 or 1 for each character (DESIGN CHOICE, log 14). -/
def instruction (op : String) (args : List Token) : Option HostInstr :=
  match op, args with
  | "wr", [.word r, .word v] => (named registerNames r).bind (fun r => (immediate 32 v).map (.wr r ·))
  | "rd", [.word r] => (named registerNames r).map .rd
  | "wrb", [.word b, .word i, .word v] =>
    (named bufferNames b).bind (fun b => (number i).bind (fun i => (immediate 8 v).map (.wrb b i ·)))
  | "rdb", [.word b, .word i] => (named bufferNames b).bind (fun b => (number i).map (.rdb b ·))
  | "cmd", [.word m] => (named mnemonics m).map .cmd
  | "wait", [] => some .wait
  | "run", [.word m] => (named mnemonics m).map .run
  | "fill", .word b :: .word i :: ts =>
    (named bufferNames b).bind (fun b => (number i).bind (fun i => (fillBytes ts).map (.fill b i ·)))
  | "fillrep", [.word b, .word i, .word n, .word v] =>
    (named bufferNames b).bind (fun b => (number i).bind (fun i => (number n).bind (fun n =>
      (immediate 8 v).map (.fillrep b i n ·))))
  | "fillbits", [.word b, .word i, .text cs] =>
    (named bufferNames b).bind (fun b => (number i).bind (fun i => (bitList cs).map (.fillbits b i ·)))
  | "copyout", [.word n] => (number n).map .copyout
  | "clrherr", [] => some .clrherr
  | _, _ => none

/-- One source line: nothing for a blank or comment line, the instruction for a good one, none for a bad one (R119). -/
def parseLine (line : List Char) : Option (List HostInstr) :=
  match tokens false [] (stripComment false line) with
  | [] => some []
  | .word op :: args => (instruction (String.ofList op) args).map ([·])
  | .text _ :: _ => none

end Sys2Proof.Machine
end

