-- ==== Sys2Proof/Machine/Instances.lean ====
section
/-! DEFINITION. Several instances of the block, "each with its own state", that "share nothing and never interact" (R98, R254). -/

namespace Sys2Proof.Machine

/-- Some instances, each its whole state (R98). -/
abbrev Instances := List State

/-- A step of instance `k` and of no other: the step of that instance's state alone (R98). Instances that are not there, and a
step that does not answer a next state, give none. -/
def stepInstance (sys : Instances) (k : Nat) : Option Instances :=
  match sys[k]? with
  | none => none
  | some s =>
    match step s with
    | .next t => some (sys.set k t)
    | .fault _ => none
    | .refused _ => none

end Sys2Proof.Machine
end

