-- ==== Sys2Proof/Safety.lean ====
section
/-! DEFINITION. What counts as a safe run: the invariant of the state, the frames of the commands, and reachability, in the terms the claims use. -/

namespace Sys2Proof.Machine

/-- The STATUS invariants of R35: BUSY = 1 implies DONE = ERR = TRUNC = 0 and ERRCODE = 0; ERR = 0 if and only if ERRCODE = 0;
TRUNC = 1 implies ERR = 0. And "14 and 15 are never reported" (R240). -/
structure State.StatusInv (s : State) : Prop where
  busyClears : s.busy = true → s.done = false ∧ s.err = false ∧ s.trunc = false ∧ s.errcode = 0#4
  errIffCode : s.err = false ↔ s.errcode = 0#4
  truncNoErr : s.trunc = true → s.err = false
  codeKnown : s.errcode.toNat ≤ 13

/-- Each buffer is in canonical form and lists only cells that exist (R49 to R52). -/
structure State.BuffersInv (s : State) : Prop where
  ibufWf : Memory.wf s.ibuf
  cbufWf : Memory.wf s.cbuf
  bbufWf : Memory.wf s.bbuf
  obufWf : Memory.wf s.obuf
  ibufWithin : Memory.within s.params.ibufSize s.ibuf
  cbufWithin : Memory.within s.params.cbufSize s.cbuf
  bbufWithin : Memory.within s.params.bbufSize s.bbuf
  obufWithin : Memory.within s.params.obufSize s.obuf

/-- The invariant of the block: legal sizes (R9), the STATUS invariants (R35), buffers in form and in bounds (R10), an OLEN that
OBUF holds (R45), a RESULT below 2^34 (R46), and a latch and countdown that are clear while no command is in flight (R53). -/
structure State.Inv (s : State) : Prop where
  sizes : s.params.Valid
  status : s.StatusInv
  buffers : s.BuffersInv
  olenFits : s.olen.toNat ≤ s.params.obufSize
  resultFits : s.result.toNat < 2 ^ 34
  idleClear : s.busy = false → s.latch = 0#32 ∧ s.wait = 0

/-- The operand registers that no command writes (R42, R43; R99 lists what each command writes). -/
structure State.SameOperandRegisters (s t : State) : Prop where
  width : t.width = s.width
  height : t.height = s.height
  bpc : t.bpc = s.bpc
  fracNum : t.fracNum = s.fracNum
  fracDen : t.fracDen = s.fracDen
  ilen : t.ilen = s.ilen
  clen : t.clen = s.clen

/-- HERR and the model's own fields: nothing a command's completion touches (R246, log 1 to log 5). -/
structure State.SameSurroundings (s t : State) : Prop where
  herr : t.herr = s.herr
  params : t.params = s.params
  epoch : t.epoch = s.epoch
  draws : t.draws = s.draws
  wait : t.wait = s.wait
  host : t.host = s.host
  replies : t.replies = s.replies

/-- Every cell of IBUF and CBUF reads as before: "no command writes IBUF or CBUF" (R99). -/
structure State.SameInputs (s t : State) : Prop where
  ibuf : ∀ i, t.ibufAt i = s.ibufAt i
  cbuf : ∀ i, t.cbufAt i = s.cbufAt i

/-- What every command leaves alone, whatever its outcome (R99, R242). -/
structure State.CommandFrame (s t : State) : Prop where
  registers : s.SameOperandRegisters t
  surroundings : s.SameSurroundings t
  inputs : s.SameInputs t

/-- Every cell of BBUF reads as before, and BLEN is as before. -/
def State.SameBits (s t : State) : Prop := t.blen = s.blen ∧ ∀ i, t.bbufAt i = s.bbufAt i

/-- Every cell of OBUF reads as before, and OLEN is as before. -/
def State.SameOutput (s t : State) : Prop := t.olen = s.olen ∧ ∀ i, t.obufAt i = s.obufAt i

/-- STATUS after a success with the given TRUNC, HERR aside: DONE = 1, everything else 0; the latch is cleared (R241). -/
structure State.Succeeded (t : State) (cut : Bit) : Prop where
  busy : t.busy = false
  done : t.done = true
  err : t.err = false
  errcode : t.errcode = 0#4
  trunc : t.trunc = cut
  latch : t.latch = 0#32

/-- STATUS after a failure with an error code, HERR aside; the latch is cleared (R241). -/
structure State.FailedWith (t : State) (code : Nat) : Prop where
  busy : t.busy = false
  done : t.done = true
  err : t.err = true
  errcode : t.errcode.toNat = code
  trunc : t.trunc = false
  latch : t.latch = 0#32

/-- A failed command writes only STATUS (R242). -/
structure State.FailureFrame (s t : State) : Prop where
  frame : s.CommandFrame t
  bits : s.SameBits t
  output : s.SameOutput t
  result : t.result = s.result

/-- Everything the block itself holds, HERR aside, reads the same in both states: what a command's outcome consists of. The
model's own counters, the host's program and its replies may differ. -/
structure State.SameOutcome (s t : State) : Prop where
  busy : t.busy = s.busy
  done : t.done = s.done
  err : t.err = s.err
  errcode : t.errcode = s.errcode
  trunc : t.trunc = s.trunc
  latch : t.latch = s.latch
  registers : s.SameOperandRegisters t
  inputs : s.SameInputs t
  bits : s.SameBits t
  output : s.SameOutput t
  result : t.result = s.result

/-- The first 32 elements of a bit sequence read as a big-endian length: "sum over i in 0..31 of b[i]·2^(31−i)" (R173). -/
def headerValue (b : Nat → Bit) : Nat := ∑ i ∈ Finset.range 32, (b i).toNat * 2 ^ (31 - i)

/-- The low bits of CBUF in canonical order (R222). -/
def State.lowBit (s : State) (i : Nat) : Bit := (s.cbufAt i).getLsbD 0

/-- The length of the message ARBITRATE.F keeps for a legal fraction: all of it if its frame fits max_bits, else the prefix that
fits (R190 to R193). -/
def State.keptLength (s : State) : Nat :=
  let maxb := 8 * (s.width.toNat * s.height.toNat * 3 * s.fracNum.toNat / s.fracDen.toNat / 8)
  if 32 + 8 * s.ilen.toNat ≤ maxb then s.ilen.toNat else (maxb - 32) / 8

/-- The error code a command reports, 0 for success, written from the check order of R243 and the conditions of R240. The codes
that R170, R194 and R224 show unreachable do not occur. -/
def State.expectedCode (s : State) : Instr → Nat
  | .unpack => if s.params.ibufSize < s.ilen.toNat then 12 else 0
  | .pack => if s.params.bbufSize < s.blen.toNat then 12 else if s.blen.toNat % 8 ≠ 0 then 1 else 0
  | .capacity => if s.bpc.toNat ≠ 1 then 2 else 0
  | .frame => if s.params.ibufSize < s.ilen.toNat then 12 else 0
  | .parse =>
    if s.params.bbufSize < s.blen.toNat then 12
    else if s.blen.toNat < 32 then 8
    else if s.blen.toNat < 32 + 8 * headerValue s.bbufAt then 9
    else 0
  | .arbitrate =>
    if s.params.ibufSize < s.ilen.toNat then 12
    else if s.width.toNat * s.height.toNat * 3 < 32 + 8 * s.ilen.toNat then 3
    else 0
  | .arbitrateF =>
    if s.params.ibufSize < s.ilen.toNat then 12
    else if ¬ (0 < s.fracNum.toNat ∧ s.fracNum.toNat ≤ s.fracDen.toNat) then 11
    else if 8 * (s.width.toNat * s.height.toNat * 3 * s.fracNum.toNat / s.fracDen.toNat / 8) < 40 then 4
    else 0
  | .embed =>
    if s.params.cbufSize < s.clen.toNat ∨ s.params.bbufSize < s.blen.toNat then 12
    else if s.bpc.toNat ≠ 1 then 2
    else if s.clen.toNat ≠ s.width.toNat * s.height.toNat * 3 then 10
    else if s.width.toNat * s.height.toNat * 3 < s.blen.toNat then 6
    else 0
  | .exthdr =>
    if s.params.cbufSize < s.clen.toNat then 12
    else if s.bpc.toNat ≠ 1 then 2
    else if s.clen.toNat ≠ s.width.toNat * s.height.toNat * 3 then 10
    else if s.clen.toNat < 32 then 8
    else 0
  | .extmsg =>
    if s.params.cbufSize < s.clen.toNat then 12
    else if s.bpc.toNat ≠ 1 then 2
    else if s.clen.toNat ≠ s.width.toNat * s.height.toNat * 3 then 10
    else if s.clen.toNat < 32 then 8
    else if s.width.toNat * s.height.toNat * 3 < 32 + 8 * headerValue s.lowBit then 7
    else 0

/-- The words R114 lists as illegal: OPC 0x0, OPC 0xA to 0xF, a nonzero bit in [7:4] or [31:9], or F = 1 with OPC other than
0x6. -/
def IllegalWord (w : Word) : Prop :=
  w.toNat % 16 = 0 ∨ 10 ≤ w.toNat % 16 ∨ w.toNat / 16 % 16 ≠ 0 ∨ w.toNat / 512 ≠ 0 ∨
    (w.toNat / 256 % 2 = 1 ∧ w.toNat % 16 ≠ 6)

/-- `addr` is the address of a cell of buffer `b` (R81). -/
def MappedCell (p : Config.Params) (b : Buffer) (addr : Nat) : Prop := b.base ≤ addr ∧ addr < b.base + b.size p

/-- The access errors of R245 (a) to (c): a register-region access of the wrong size or alignment, a buffer access whose size is
not 1, and an access to an unmapped address, reserved offsets and unused window parts among them. -/
def BadAccess (p : Config.Params) (addr : Word) (size : Size) : Prop :=
  (addr.toNat < 0x100 ∧ (size ≠ .four ∨ addr.toNat % 4 ≠ 0)) ∨ ((∃ b, MappedCell p b addr.toNat) ∧ size ≠ .one) ∨
    (0x48 ≤ addr.toNat ∧ ∀ b, ¬ MappedCell p b addr.toNat)

/-- The addresses R245 (d) forbids to write: ID, OLEN, RESULT_LO, RESULT_HI, the *_SIZE registers, and OBUF. -/
def ReadOnlyAddress (p : Config.Params) (addr : Nat) : Prop :=
  addr ∈ [0x00, 0x2C, 0x30, 0x34, 0x38, 0x3C, 0x40, 0x44] ∨ MappedCell p .obuf addr

/-- The host-access errors of R245 (a) to (e). -/
def State.HostAccessError (s : State) : Transaction → Prop
  | .read addr size => BadAccess s.params addr size
  | .write addr size _ =>
    BadAccess s.params addr size ∨ ReadOnlyAddress s.params addr.toNat ∨ (s.busy = true ∧ addr.toNat ≠ 0x08)
  | .reset => False

/-- No reset is among the first `n` operations of the host's program. -/
def State.NoResetWithin (s : State) (n : Nat) : Prop := HostOp.txn .reset ∉ s.host.take n

/-- `t` is reached from `s` in some number of steps. -/
def Reaches (s t : State) : Prop := ∃ k, Sys2Proof.core.run k s = .next t

/-- A run of `k` steps from `s` to its end `t` whose results a claim may rest on: HERR = 0 and ERR = 0 after EACH command, that is
in the state after every completion step of the run, and not only in `t` (R286). Issue clears ERR (R241), so the end alone does not
show an earlier failure. -/
structure State.CleanRun (k : Nat) (s t : State) : Prop where
  runs : Sys2Proof.core.run k s = .next t
  ended : t.runEnded = true
  clean : ∀ (j : Nat) (u v : State), j < k → Sys2Proof.core.run j s = .next u → u.busy = true → u.wait = 0 →
    step u = .next v → v.herr = false ∧ v.err = false

end Sys2Proof.Machine
end

