-- ==== Sys2Proof/Certificates/Slice0/Obligations.lean ====
section
/-! DEFINITION. The statements for the provers. Each docstring says which rule of spec/ it formalises. -/

open Sys2Proof Sys2Proof.Machine

/-! Reset -/

/-- R55: the register values after reset; STATUS reads 0 and BPC is 1. -/
def Obligations.ResetRegisterValues : Prop :=
  State.reset.statusWord = 0#32 ∧ State.reset.busy = false ∧ State.reset.done = false ∧ State.reset.err = false ∧
    State.reset.trunc = false ∧ State.reset.herr = false ∧ State.reset.errcode = 0#4 ∧ State.reset.latch = 0#32 ∧
    State.reset.width = 0#16 ∧ State.reset.height = 0#16 ∧ State.reset.bpc = 1#32 ∧ State.reset.fracNum = 0#32 ∧
    State.reset.fracDen = 0#32 ∧ State.reset.ilen = 0#32 ∧ State.reset.clen = 0#32 ∧ State.reset.blen = 0#32 ∧
    State.reset.olen = 0#32 ∧ State.reset.result = 0#64 ∧
    ∃ t, exec .arbitrateF State.reset = .next t ∧ t.FailedWith 11

/-- The invariant holds at reset. The sizes at reset are the reference configuration, the model's choice (log 1). -/
def Obligations.ResetSatisfiesInvariant : Prop := State.reset.Inv

/-- R271: the Reset transaction gives every register the value of R55 whatever it was, clears the latch, leaves no cell
listed (each cell is a free value of a new epoch, log 2), and leaves the sizes alone. -/
def Obligations.ResetTransactionClearsBlock : Prop :=
  ∀ s : State,
    (s.transact .reset).statusWord = 0#32 ∧ (s.transact .reset).latch = 0#32 ∧ (s.transact .reset).width = 0#16 ∧
      (s.transact .reset).height = 0#16 ∧ (s.transact .reset).bpc = 1#32 ∧ (s.transact .reset).fracNum = 0#32 ∧
      (s.transact .reset).fracDen = 0#32 ∧ (s.transact .reset).ilen = 0#32 ∧ (s.transact .reset).clen = 0#32 ∧
      (s.transact .reset).blen = 0#32 ∧ (s.transact .reset).olen = 0#32 ∧ (s.transact .reset).result = 0#64 ∧
      (∀ i, (s.transact .reset).ibufAt i = Config.resetIbuf (s.epoch + 1) i) ∧
      (∀ i, (s.transact .reset).cbufAt i = Config.resetCbuf (s.epoch + 1) i) ∧
      (∀ i, (s.transact .reset).bbufAt i = Config.resetBbuf (s.epoch + 1) i) ∧
      (∀ i, (s.transact .reset).obufAt i = Config.resetObuf (s.epoch + 1) i) ∧
      (s.transact .reset).readRegister .id = 0x4C534231#32 ∧ (s.transact .reset).params = s.params

/-! Decoding -/

/-- A few words of R112, written out from its table. -/
def Obligations.TableWordsDecode : Prop :=
  decode 0x00000001#32 = .command .unpack ∧ decode 0x00000003#32 = .command .capacity ∧
    decode 0x00000005#32 = .command .parse ∧ decode 0x00000006#32 = .command .arbitrate ∧
    decode 0x00000106#32 = .command .arbitrateF ∧ decode 0x00000007#32 = .command .embed ∧
    decode 0x00000009#32 = .command .extmsg

/-- R112: exactly the ten words of the table are legal, and each is its command. -/
def Obligations.ExactlyTenLegalWords : Prop :=
  ∀ (w : Word) (i : Instr), decode w = .command i ↔
    (w, i) ∈ [(0x00000001#32, Instr.unpack), (0x00000002#32, .pack), (0x00000003#32, .capacity), (0x00000004#32, .frame),
      (0x00000005#32, .parse), (0x00000006#32, .arbitrate), (0x00000106#32, .arbitrateF), (0x00000007#32, .embed),
      (0x00000008#32, .exthdr), (0x00000009#32, .extmsg)]

/-- R110: the word of every CMD32, whatever its field values, decodes to a command exactly when its fields are legal, and then to
the command with just those fields; and every command's fields are legal. No bit of an encoding is dropped. -/
def Obligations.DecodeAndEncodeAgree : Prop :=
  (∀ c : Cmd32, c.wellFormed = true ↔ ∃ i, decode c.word = .command i ∧ i.fields = c) ∧
    (∀ i : Instr, i.wellFormed = true → decode (encode i) = .command i) ∧
    ∀ (w : Word) (i : Instr), decode w = .command i → encode i = w

/-- R114: the illegal words are just those it lists, and an illegal word completes with code 13 and writes no destination. -/
def Obligations.IllegalWordsCompleteWithCode13 : Prop :=
  (∀ w : Word, (∀ i, decode w ≠ .command i) ↔ IllegalWord w) ∧
    ∀ s : State, s.busy = true → s.wait = 0 → IllegalWord s.latch →
      ∃ t, step s = .next t ∧ t.FailedWith 13 ∧ s.FailureFrame t

/-! Steps -/

/-- When the command in flight is due, a step is `exec` of the decoded command (R241). -/
def Obligations.StepRunsLatchedCommand : Prop :=
  ∀ (s : State) (i : Instr), s.busy = true → s.wait = 0 → decode s.latch = .command i → i.wellFormed = true → step s = exec i s

/-- While no command is due a step is the host's next operation, and the countdown of a command in flight goes down by one, also
when the host has nothing to do. The countdown is the model's form of LATENCY (log 4, log 6). -/
def Obligations.StepPerformsHostOperation : Prop :=
  (∀ (s : State) (op : HostOp) (rest : List HostOp), s.host = op :: rest →
    (s.busy = false → step s = .next (s.hostOp op rest)) ∧
      ∀ k, s.busy = true → s.wait = k + 1 → step s = .next (State.hostOp { s with wait := k } op rest)) ∧
  ∀ (s : State) (k : Nat), s.busy = true → s.wait = k + 1 → s.host = [] → step s = .next { s with wait := k }

/-- "All state is kept while idle" (R256): with no command in flight and no host operation left, a step changes nothing (log 8). -/
def Obligations.IdleBlockKeepsState : Prop := ∀ s : State, s.busy = false → s.host = [] → step s = .next s

/-- A step always answers a next state: every transaction is total (R80) and every command completes (R113, R241). -/
def Obligations.StepAlwaysAnswersNext : Prop := ∀ s : State, ∃ t, step s = .next t

/-- Every step keeps the invariant, from every state that meets it. -/
def Obligations.StepKeepsInvariant : Prop := ∀ s t : State, s.Inv → step s = .next t → t.Inv

/-- R93: while a command is in flight, no number of steps up to its completion changes its operands, its latched word or the fact
that it is in flight, as long as the host does not reset the block. -/
def Obligations.OperandsFrozenWhileBusy : Prop :=
  ∀ (k : Nat) (s : State), s.busy = true → k ≤ s.wait → s.NoResetWithin k →
    ∃ t, Sys2Proof.core.run k s = .next t ∧ s.SameOutcome t ∧ t.wait + k = s.wait ∧ t.params = s.params

/-- "No rule depends on its value" (R9): whatever LATENCY a command has and whatever the host does meanwhile short of a reset, the
command's completion leaves the block, HERR aside, as if it had been run at once. -/
def Obligations.LatencyDoesNotChangeOutcome : Prop :=
  ∀ (s : State) (i : Instr), s.busy = true → decode s.latch = .command i → s.NoResetWithin s.wait →
    ∃ t u, Sys2Proof.core.run (s.wait + 1) s = .next t ∧ exec i s = .next u ∧ u.SameOutcome t

/-- R287: a command in flight, legal or not, has completed after finitely many steps, unless the host resets the block first. -/
def Obligations.IssuedCommandCompletes : Prop :=
  ∀ s : State, s.busy = true → s.NoResetWithin s.wait →
    ∃ t, Sys2Proof.core.run (s.wait + 1) s = .next t ∧ t.busy = false ∧ t.done = true

/-- "A `wait` loop therefore ends" (R287): the host's `wait` leaves with the value of STATUS read after the completion. -/
def Obligations.WaitLoopEnds : Prop :=
  ∀ (s : State) (rest : List HostOp), s.busy = true → s.host = .wait :: rest →
    ∃ t, Sys2Proof.core.run (s.wait + 2) s = .next t ∧ t.host = rest ∧ t.busy = false ∧ t.done = true ∧
      t.replies.head? = some t.statusWord

/-! Host transactions -/

/-- R34: a write of CMD while BUSY = 0 latches the word unchecked, sets BUSY, clears the other STATUS fields but HERR, and changes
nothing else of the block; a write while BUSY = 1 only sets HERR; a read returns 0 and has no side effect; a latched word that is
no command completes with IllegalCommand. -/
def Obligations.CommandWriteIssues : Prop :=
  (∀ s : State, IllegalWord s.latch → ∃ t, completeLatched s = .next t ∧ t.FailedWith 13) ∧
  ∀ (s : State) (v : Word),
    (s.busy = false →
      ((s.transact (.write 0x04#32 .four v)).latch = v ∧ (s.transact (.write 0x04#32 .four v)).busy = true ∧
        (s.transact (.write 0x04#32 .four v)).done = false ∧ (s.transact (.write 0x04#32 .four v)).err = false ∧
        (s.transact (.write 0x04#32 .four v)).trunc = false ∧ (s.transact (.write 0x04#32 .four v)).errcode = 0#4 ∧
        (s.transact (.write 0x04#32 .four v)).herr = s.herr ∧
        s.SameOperandRegisters (s.transact (.write 0x04#32 .four v)) ∧ s.SameInputs (s.transact (.write 0x04#32 .four v)) ∧
        s.SameBits (s.transact (.write 0x04#32 .four v)) ∧ s.SameOutput (s.transact (.write 0x04#32 .four v)) ∧
        (s.transact (.write 0x04#32 .four v)).result = s.result)) ∧
      (s.busy = true → s.transact (.write 0x04#32 .four v) = { s with herr := true }) ∧
      s.transact (.read 0x04#32 .four) = s.reply 0#32

/-- R33: ID reads 0x4C534231 whether or not a command is in flight; a write is ignored and sets HERR. -/
def Obligations.IdentificationRegister : Prop :=
  ∀ (s : State) (v : Word),
    s.transact (.read 0x00#32 .four) = s.reply 0x4C534231#32 ∧ s.transact (.write 0x00#32 .four v) = { s with herr := true }

/-- The layout of STATUS (the table of R35): a read has no side effect and returns HERR [8], ERRCODE [7:4], TRUNC [3], ERR [2],
DONE [1] and BUSY [0], all other bits 0, whether or not a command is in flight. -/
def Obligations.StatusReadLayout : Prop :=
  ∀ s : State, ∃ w, s.transact (.read 0x08#32 .four) = s.reply w ∧
    w.toNat = s.busy.toNat + 2 * s.done.toNat + 4 * s.err.toNat + 8 * s.trunc.toNat + 16 * s.errcode.toNat +
      256 * s.herr.toNat

/-- R36: a write of STATUS clears HERR if bit 8 is set and does nothing else, whether or not a command is in flight; no other
register is writable while BUSY = 1. -/
def Obligations.StatusWriteClearsHerr : Prop :=
  ∀ (s : State) (v : Word),
    s.transact (.write 0x08#32 .four v) = (if v.getLsbD 8 then { s with herr := false } else s) ∧
      (s.busy = true → ∀ r : Register, r ≠ .status →
        s.transact (.write (BitVec.ofNat 32 r.offset) .four v) = { s with herr := true })

/-- R37 and R38: WIDTH and HEIGHT keep v[15:0], ignore v[31:16] without HERR, and read with the upper bits 0. -/
def Obligations.DimensionRegisters : Prop :=
  ∀ (s : State) (v : Word), s.busy = false →
    s.transact (.write 0x0C#32 .four v) = { s with width := BitVec.ofNat 16 v.toNat } ∧
      s.transact (.write 0x10#32 .four v) = { s with height := BitVec.ofNat 16 v.toNat } ∧
      s.transact (.read 0x0C#32 .four) = s.reply (BitVec.ofNat 32 s.width.toNat) ∧
      s.transact (.read 0x10#32 .four) = s.reply (BitVec.ofNat 32 s.height.toNat)

/-- The full-width operand registers (R39 to R44): any value may be written while BUSY = 0, nothing else changes, and a read
returns the register. -/
def Obligations.OperandRegisters : Prop :=
  ∀ (s : State) (v : Word), s.busy = false →
    s.transact (.write 0x14#32 .four v) = { s with bpc := v } ∧ s.transact (.write 0x18#32 .four v) = { s with fracNum := v } ∧
      s.transact (.write 0x1C#32 .four v) = { s with fracDen := v } ∧
      s.transact (.write 0x20#32 .four v) = { s with ilen := v } ∧ s.transact (.write 0x24#32 .four v) = { s with clen := v } ∧
      s.transact (.write 0x28#32 .four v) = { s with blen := v } ∧ s.transact (.read 0x14#32 .four) = s.reply s.bpc ∧
      s.transact (.read 0x18#32 .four) = s.reply s.fracNum ∧ s.transact (.read 0x1C#32 .four) = s.reply s.fracDen ∧
      s.transact (.read 0x20#32 .four) = s.reply s.ilen ∧ s.transact (.read 0x24#32 .four) = s.reply s.clen ∧
      s.transact (.read 0x28#32 .four) = s.reply s.blen

/-- The result registers (R45, R46): OLEN and the two halves of RESULT read as they are while BUSY = 0, and are read-only. -/
def Obligations.ResultRegisters : Prop :=
  ∀ (s : State) (v : Word),
    (s.busy = false → s.transact (.read 0x2C#32 .four) = s.reply s.olen ∧
      s.transact (.read 0x30#32 .four) = s.reply (BitVec.ofNat 32 s.result.toNat) ∧
      s.transact (.read 0x34#32 .four) = s.reply (BitVec.ofNat 32 (s.result.toNat / 2 ^ 32))) ∧
      s.transact (.write 0x2C#32 .four v) = { s with herr := true } ∧
      s.transact (.write 0x30#32 .four v) = { s with herr := true } ∧
      s.transact (.write 0x34#32 .four v) = { s with herr := true }

/-- R47: the *_SIZE registers read the parameter values whether or not a command is in flight; a write is ignored and sets HERR. -/
def Obligations.SizeRegisters : Prop :=
  ∀ (s : State) (v : Word), s.params.Valid →
    (∃ w, s.transact (.read 0x38#32 .four) = s.reply w ∧ w.toNat = s.params.ibufSize) ∧
      (∃ w, s.transact (.read 0x3C#32 .four) = s.reply w ∧ w.toNat = s.params.cbufSize) ∧
      (∃ w, s.transact (.read 0x40#32 .four) = s.reply w ∧ w.toNat = s.params.bbufSize) ∧
      (∃ w, s.transact (.read 0x44#32 .four) = s.reply w ∧ w.toNat = s.params.obufSize) ∧
      ∀ a ∈ [0x38#32, 0x3C#32, 0x40#32, 0x44#32], s.transact (.write a .four v) = { s with herr := true }

/-- R48: the reserved offsets 0x48 to 0xFC, whatever the access size, read 0 and set HERR; a write is ignored and sets HERR. -/
def Obligations.ReservedOffsets : Prop :=
  ∀ (s : State) (a v : Word) (size : Size), 0x48 ≤ a.toNat → a.toNat ≤ 0xFF →
    s.transact (.read a size) = State.reply { s with herr := true } 0#32 ∧ s.transact (.write a size v) = { s with herr := true }

/-- R83: while BUSY = 0 a size-1 read of a cell returns it, a size-1 write of IBUF or CBUF stores the byte and one of BBUF its
bit 0, each changing that one cell and nothing else; at any time a write of OBUF, and any access of size 2 or 4, is an error. -/
def Obligations.BufferCellAccess : Prop :=
  ∀ (s : State) (i : Nat) (v : Word), s.params.Valid →
    (i < s.params.ibufSize → s.busy = false →
      s.transact (.read (BitVec.ofNat 32 (0x10000000 + i)) .one) = s.reply (BitVec.ofNat 32 (s.ibufAt i).toNat) ∧
      (∀ j, (s.transact (.write (BitVec.ofNat 32 (0x10000000 + i)) .one v)).ibufAt j =
        if j = i then BitVec.ofNat 8 v.toNat else s.ibufAt j) ∧
      (∃ m, s.transact (.write (BitVec.ofNat 32 (0x10000000 + i)) .one v) = { s with ibuf := m })) ∧
    (i < s.params.cbufSize → s.busy = false →
      s.transact (.read (BitVec.ofNat 32 (0x20000000 + i)) .one) = s.reply (BitVec.ofNat 32 (s.cbufAt i).toNat) ∧
      (∀ j, (s.transact (.write (BitVec.ofNat 32 (0x20000000 + i)) .one v)).cbufAt j =
        if j = i then BitVec.ofNat 8 v.toNat else s.cbufAt j) ∧
      (∃ m, s.transact (.write (BitVec.ofNat 32 (0x20000000 + i)) .one v) = { s with cbuf := m })) ∧
    (i < s.params.bbufSize → s.busy = false →
      s.transact (.read (BitVec.ofNat 32 (0x30000000 + i)) .one) = s.reply (BitVec.ofNat 32 (s.bbufAt i).toNat) ∧
      (∀ j, (s.transact (.write (BitVec.ofNat 32 (0x30000000 + i)) .one v)).bbufAt j =
        if j = i then v.getLsbD 0 else s.bbufAt j) ∧
      (∃ m, s.transact (.write (BitVec.ofNat 32 (0x30000000 + i)) .one v) = { s with bbuf := m })) ∧
    (i < s.params.obufSize →
      (s.busy = false →
        s.transact (.read (BitVec.ofNat 32 (0x40000000 + i)) .one) = s.reply (BitVec.ofNat 32 (s.obufAt i).toNat)) ∧
      s.transact (.write (BitVec.ofNat 32 (0x40000000 + i)) .one v) = { s with herr := true }) ∧
    ∀ (b : Buffer) (size : Size), i < b.size s.params → size ≠ .one →
      s.transact (.read (BitVec.ofNat 32 (b.base + i)) size) = State.reply { s with herr := true } 0#32 ∧
      s.transact (.write (BitVec.ofNat 32 (b.base + i)) size v) = { s with herr := true }

/-- R84, and the error part of R82: an access of any size to an unmapped address, or a register-region access of the wrong size
or alignment, reads 0 or is ignored, and sets HERR, whether or not a command is in flight. -/
def Obligations.AccessErrors : Prop :=
  ∀ (s : State) (a : Word) (size : Size) (v : Word), s.params.Valid →
    ((0x100 ≤ a.toNat ∧ ∀ b, ¬ MappedCell s.params b a.toNat) ∨ (a.toNat < 0x100 ∧ (size ≠ .four ∨ a.toNat % 4 ≠ 0))) →
      s.transact (.read a size) = State.reply { s with herr := true } 0#32 ∧
        s.transact (.write a size v) = { s with herr := true }

/-- R85: with a command in flight, the exact registers read as they are, any other legal read returns some value of its type and
changes nothing but the draw count, any write but to STATUS only sets HERR, and an access error is as ever. -/
def Obligations.AccessWhileBusy : Prop :=
  ∀ (s : State) (v : Word), s.params.Valid → s.busy = true →
    (∀ r ∈ [Register.id, .status, .cmd, .ibufSize, .cbufSize, .bbufSize, .obufSize],
      s.transact (.read (BitVec.ofNat 32 r.offset) .four) = s.reply (s.readRegister r)) ∧
    (∀ r ∈ [Register.width, .height, .bpc, .fracNum, .fracDen, .ilen, .clen, .blen, .olen, .resultLo, .resultHi],
      ∃ w, s.transact (.read (BitVec.ofNat 32 r.offset) .four) =
        { s with draws := s.draws + 1, replies := w :: s.replies }) ∧
    (∀ (b : Buffer) (i : Nat), i < b.size s.params →
      (∃ x : Byte, (b = .bbuf → x.toNat ≤ 1) ∧ s.transact (.read (BitVec.ofNat 32 (b.base + i)) .one) =
        { s with draws := s.draws + 1, replies := BitVec.ofNat 32 x.toNat :: s.replies }) ∧
      s.transact (.write (BitVec.ofNat 32 (b.base + i)) .one v) = { s with herr := true }) ∧
    (∀ r : Register, r ≠ .status → s.transact (.write (BitVec.ofNat 32 r.offset) .four v) = { s with herr := true }) ∧
    ∀ (a : Word) (size : Size), BadAccess s.params a size →
      s.transact (.read a size) = State.reply { s with herr := true } 0#32 ∧
        s.transact (.write a size v) = { s with herr := true }

/-- R245: HERR is 1 after a transaction exactly when the transaction is one of the errors (a) to (e), or HERR was 1 and the
transaction is neither a clearing write of STATUS nor a reset; an error that is a read returns 0, one that is a write is ignored,
and neither changes anything else; and a completion leaves HERR alone. -/
def Obligations.HerrSetByAccessErrorsOnly : Prop :=
  (∀ (s : State) (x : Transaction), s.params.Valid →
    ((s.transact x).herr = true ↔ s.HostAccessError x ∨
      (s.herr = true ∧ x ≠ .reset ∧ ∀ v, x = .write 0x08#32 .four v → v.getLsbD 8 = false))) ∧
  (∀ (s : State) (a : Word) (size : Size), s.params.Valid → s.HostAccessError (.read a size) →
    s.transact (.read a size) = { s with herr := true, replies := 0#32 :: s.replies }) ∧
  (∀ (s : State) (a : Word) (size : Size) (v : Word), s.params.Valid → s.HostAccessError (.write a size v) →
    s.transact (.write a size v) = { s with herr := true }) ∧
  ∀ s t : State, completeLatched s = .next t → t.herr = s.herr

/-- R246: a step that clears HERR is a host write of STATUS with bit 8 set or a reset, and both do clear it; a command may issue
with HERR = 1, runs the same as with HERR = 0, and leaves it. -/
def Obligations.HerrSticky : Prop :=
  (∀ s t : State, s.herr = true → step s = .next t → t.herr = false →
    (∃ v rest, s.host = .txn (.write 0x08#32 .four v) :: rest ∧ v.getLsbD 8 = true) ∨
      ∃ rest, s.host = .txn .reset :: rest) ∧
  (∀ (s : State) (v : Word), v.getLsbD 8 = true → (s.transact (.write 0x08#32 .four v)).herr = false) ∧
  (∀ s : State, (s.transact .reset).herr = false) ∧
  (∀ (s : State) (v : Word), s.busy = false → s.herr = true → (s.transact (.write 0x04#32 .four v)).busy = true ∧
    (s.transact (.write 0x04#32 .four v)).latch = v ∧ (s.transact (.write 0x04#32 .four v)).herr = true) ∧
  ∀ (i : Instr) (s t : State) (h : Bit), exec i s = .next t → exec i { s with herr := h } = .next { t with herr := h }

/-- R90: a legal read while BUSY = 0 changes nothing (the host receives the value), and the same read again returns the same
value; while BUSY = 1 it changes nothing but the draw count; an access-error read sets HERR. -/
def Obligations.ReadsHaveNoSideEffect : Prop :=
  ∀ (s : State) (a : Word) (size : Size), s.params.Valid →
    (¬ BadAccess s.params a size → s.busy = false → ∃ w, s.transact (.read a size) = { s with replies := w :: s.replies } ∧
      State.transact { s with replies := w :: s.replies } (.read a size) = { s with replies := w :: w :: s.replies }) ∧
    (¬ BadAccess s.params a size → s.busy = true → ∃ w d, s.transact (.read a size) =
      { s with replies := w :: s.replies, draws := d }) ∧
    (BadAccess s.params a size → s.transact (.read a size) = { s with replies := 0#32 :: s.replies, herr := true })

/-- R249: an error's report, and the whole of STATUS but HERR, stays as it is through every step of the idle block until the host
issues the next command or resets the block. -/
def Obligations.ReportStaysUntilIssueOrReset : Prop :=
  ∀ s t : State, s.busy = false → step s = .next t →
    (t.busy = false ∧ t.done = s.done ∧ t.err = s.err ∧ t.trunc = s.trunc ∧ t.errcode = s.errcode ∧ t.latch = s.latch) ∨
      (∃ v rest, s.host = .txn (.write 0x04#32 .four v) :: rest) ∨ ∃ rest, s.host = .txn .reset :: rest

/-- "The core never writes ILEN", nor CLEN (R42, R43), nor IBUF or CBUF (R49, R50): whatever the step, an operand register changes
only by a reset or by a size-4 host write to one of their offsets while BUSY = 0, and a cell of IBUF or CBUF only by a reset or by
a size-1 host write to that cell while BUSY = 0. -/
def Obligations.InputsChangeByHostWritesOnly : Prop :=
  ∀ s t : State, step s = .next t → (∀ rest, s.host ≠ .txn .reset :: rest) →
    (¬ s.SameOperandRegisters t → s.busy = false ∧
      ∃ a v rest, s.host = .txn (.write a .four v) :: rest ∧ 0x0C ≤ a.toNat ∧ a.toNat ≤ 0x24) ∧
    (∀ i, t.ibufAt i ≠ s.ibufAt i → s.busy = false ∧ ∃ rest a, a.toNat = 0x10000000 + i ∧
      ((∃ v, s.host = .txn (.write a .one v) :: rest) ∨ s.host = .writeBack a :: rest)) ∧
    ∀ i, t.cbufAt i ≠ s.cbufAt i → s.busy = false ∧ ∃ rest a, a.toNat = 0x20000000 + i ∧
      ((∃ v, s.host = .txn (.write a .one v) :: rest) ∨ s.host = .writeBack a :: rest)

/-! The commands: what each does where its checks pass, and what it reports where they do not -/

/-- R140. -/
def Obligations.UnpackWritesBits : Prop :=
  encode .unpack = 0x00000001#32 ∧
  (∀ s : State, s.params.Valid → s.ilen.toNat ≤ s.params.ibufSize →
    ∃ t, exec .unpack s = .next t ∧ t.Succeeded false ∧ s.CommandFrame t ∧ s.SameOutput t ∧
      t.blen.toNat = 8 * s.ilen.toNat ∧ t.result.toNat = 8 * s.ilen.toNat ∧
      (∀ k < s.ilen.toNat, ∀ j < 8, t.bbufAt (8 * k + j) = (s.ibufAt k).getLsbD (7 - j)) ∧
      ∀ i, 8 * s.ilen.toNat ≤ i → t.bbufAt i = s.bbufAt i) ∧
  ∀ s : State, s.params.ibufSize < s.ilen.toNat → ∃ t, exec .unpack s = .next t ∧ t.FailedWith 12 ∧ s.FailureFrame t

/-- R141. -/
def Obligations.PackWritesBytes : Prop :=
  encode .pack = 0x00000002#32 ∧
  (∀ s : State, s.blen.toNat ≤ s.params.bbufSize → s.blen.toNat % 8 = 0 →
    ∃ t, exec .pack s = .next t ∧ t.Succeeded false ∧ s.CommandFrame t ∧ s.SameBits t ∧
      t.olen.toNat = s.blen.toNat / 8 ∧ t.result.toNat = s.blen.toNat / 8 ∧
      (∀ k < s.blen.toNat / 8, ∀ j < 8, (t.obufAt k).getLsbD (7 - j) = s.bbufAt (8 * k + j)) ∧
      ∀ i, s.blen.toNat / 8 ≤ i → t.obufAt i = s.obufAt i) ∧
  (∀ s : State, s.params.bbufSize < s.blen.toNat → ∃ t, exec .pack s = .next t ∧ t.FailedWith 12 ∧ s.FailureFrame t) ∧
  ∀ s : State, s.blen.toNat ≤ s.params.bbufSize → s.blen.toNat % 8 ≠ 0 →
    ∃ t, exec .pack s = .next t ∧ t.FailedWith 1 ∧ s.FailureFrame t

/-- R160, R161: W·H·3 with BPC = 1 for every W and H, else UnsupportedDepth. CLEN is not read. -/
def Obligations.CapacityIsExact : Prop :=
  encode .capacity = 0x00000003#32 ∧
  (∀ s : State, s.bpc = 1#32 →
    ∃ t, exec .capacity s = .next t ∧ t.Succeeded false ∧ s.CommandFrame t ∧ s.SameBits t ∧ s.SameOutput t ∧
      t.result.toNat = s.width.toNat * s.height.toNat * 3) ∧
  ∀ s : State, s.bpc ≠ 1#32 → ∃ t, exec .capacity s = .next t ∧ t.FailedWith 2 ∧ s.FailureFrame t

/-- R170, R172: 32 header bits from bit 31 of the length down to bit 0, then the message MSB first, byte by byte. -/
def Obligations.FrameWritesFrame : Prop :=
  encode .frame = 0x00000004#32 ∧
  (∀ s : State, s.params.Valid → s.ilen.toNat ≤ s.params.ibufSize →
    ∃ t, exec .frame s = .next t ∧ t.Succeeded false ∧ s.CommandFrame t ∧ s.SameOutput t ∧
      t.blen.toNat = 32 + 8 * s.ilen.toNat ∧ t.result.toNat = s.ilen.toNat ∧
      (∀ i < 32, t.bbufAt i = s.ilen.getLsbD (31 - i)) ∧
      (∀ k < s.ilen.toNat, ∀ j < 8, t.bbufAt (32 + 8 * k + j) = (s.ibufAt k).getLsbD (7 - j)) ∧
      ∀ i, 32 + 8 * s.ilen.toNat ≤ i → t.bbufAt i = s.bbufAt i) ∧
  ∀ s : State, s.params.ibufSize < s.ilen.toNat → ∃ t, exec .frame s = .next t ∧ t.FailedWith 12 ∧ s.FailureFrame t

/-- R171, R173, R175: with L the header's value, the 8L bits after the header are packed into L bytes and the bits after them are
ignored. -/
def Obligations.ParseWritesPayload : Prop :=
  encode .parse = 0x00000005#32 ∧
  (∀ s : State, s.blen.toNat ≤ s.params.bbufSize → 32 + 8 * headerValue s.bbufAt ≤ s.blen.toNat →
    ∃ t, exec .parse s = .next t ∧ t.Succeeded false ∧ s.CommandFrame t ∧ s.SameBits t ∧
      t.olen.toNat = headerValue s.bbufAt ∧ t.result.toNat = headerValue s.bbufAt ∧
      (∀ k < headerValue s.bbufAt, ∀ j < 8, (t.obufAt k).getLsbD (7 - j) = s.bbufAt (32 + 8 * k + j)) ∧
      ∀ i, headerValue s.bbufAt ≤ i → t.obufAt i = s.obufAt i) ∧
  (∀ s : State, s.params.bbufSize < s.blen.toNat → ∃ t, exec .parse s = .next t ∧ t.FailedWith 12 ∧ s.FailureFrame t) ∧
  (∀ s : State, s.blen.toNat ≤ s.params.bbufSize → s.blen.toNat < 32 →
    ∃ t, exec .parse s = .next t ∧ t.FailedWith 8 ∧ s.FailureFrame t) ∧
  ∀ s : State, s.blen.toNat ≤ s.params.bbufSize → 32 ≤ s.blen.toNat → s.blen.toNat < 32 + 8 * headerValue s.bbufAt →
    ∃ t, exec .parse s = .next t ∧ t.FailedWith 9 ∧ s.FailureFrame t

/-- R190 with F = 0: a message whose frame fits W·H·3 is framed unmodified with TRUNC = 0, any other is PayloadTooLarge. BPC,
CLEN and the fraction are not read. -/
def Obligations.ArbitrateFramesWholeMessage : Prop :=
  encode .arbitrate = 0x00000006#32 ∧
  (∀ s : State, s.params.Valid → s.ilen.toNat ≤ s.params.ibufSize →
    32 + 8 * s.ilen.toNat ≤ s.width.toNat * s.height.toNat * 3 →
    ∃ t, exec .arbitrate s = .next t ∧ t.Succeeded false ∧ s.CommandFrame t ∧ s.SameOutput t ∧
      t.blen.toNat = 32 + 8 * s.ilen.toNat ∧ t.result.toNat = s.ilen.toNat ∧
      (∀ i < 32, t.bbufAt i = s.ilen.getLsbD (31 - i)) ∧
      (∀ k < s.ilen.toNat, ∀ j < 8, t.bbufAt (32 + 8 * k + j) = (s.ibufAt k).getLsbD (7 - j)) ∧
      ∀ i, 32 + 8 * s.ilen.toNat ≤ i → t.bbufAt i = s.bbufAt i) ∧
  (∀ s : State, s.params.ibufSize < s.ilen.toNat →
    ∃ t, exec .arbitrate s = .next t ∧ t.FailedWith 12 ∧ s.FailureFrame t) ∧
  ∀ s : State, s.ilen.toNat ≤ s.params.ibufSize → s.width.toNat * s.height.toNat * 3 < 32 + 8 * s.ilen.toNat →
    ∃ t, exec .arbitrate s = .next t ∧ t.FailedWith 3 ∧ s.FailureFrame t

/-- R190 with F = 1, R191, R192, R193, R197: for a legal fraction and max_bits ≥ 40 the message, or the prefix of it that fits
max_bits, is framed; TRUNC says whether it was cut; an illegal fraction is InvalidFraction and a budget below 40 is
FractionTooSmall. -/
def Obligations.ArbitrateFractionCutsPrefix : Prop :=
  encode .arbitrateF = 0x00000106#32 ∧
  (∀ s : State, s.params.Valid → s.ilen.toNat ≤ s.params.ibufSize → 0 < s.fracNum.toNat →
    s.fracNum.toNat ≤ s.fracDen.toNat →
    40 ≤ 8 * (s.width.toNat * s.height.toNat * 3 * s.fracNum.toNat / s.fracDen.toNat / 8) →
    ∃ t, exec .arbitrateF s = .next t ∧ t.Succeeded (decide (s.keptLength < s.ilen.toNat)) ∧ s.CommandFrame t ∧
      s.SameOutput t ∧ t.blen.toNat = 32 + 8 * s.keptLength ∧ t.result.toNat = s.keptLength ∧
      (∀ i < 32, t.bbufAt i = s.keptLength.testBit (31 - i)) ∧
      (∀ k < s.keptLength, ∀ j < 8, t.bbufAt (32 + 8 * k + j) = (s.ibufAt k).getLsbD (7 - j)) ∧
      ∀ i, 32 + 8 * s.keptLength ≤ i → t.bbufAt i = s.bbufAt i) ∧
  (∀ s : State, s.params.ibufSize < s.ilen.toNat →
    ∃ t, exec .arbitrateF s = .next t ∧ t.FailedWith 12 ∧ s.FailureFrame t) ∧
  (∀ s : State, s.ilen.toNat ≤ s.params.ibufSize → ¬ (0 < s.fracNum.toNat ∧ s.fracNum.toNat ≤ s.fracDen.toNat) →
    ∃ t, exec .arbitrateF s = .next t ∧ t.FailedWith 11 ∧ s.FailureFrame t) ∧
  ∀ s : State, s.ilen.toNat ≤ s.params.ibufSize → 0 < s.fracNum.toNat → s.fracNum.toNat ≤ s.fracDen.toNat →
    8 * (s.width.toNat * s.height.toNat * 3 * s.fracNum.toNat / s.fracDen.toNat / 8) < 40 →
    ∃ t, exec .arbitrateF s = .next t ∧ t.FailedWith 4 ∧ s.FailureFrame t

/-- R210, R211: OBUF takes the cover with the low bit of the first BLEN bytes replaced, the rest copied; the four failures. -/
def Obligations.EmbedReplacesLowBits : Prop :=
  encode .embed = 0x00000007#32 ∧
  (∀ s : State, s.clen.toNat ≤ s.params.cbufSize → s.blen.toNat ≤ s.params.bbufSize → s.bpc = 1#32 →
    s.clen.toNat = s.width.toNat * s.height.toNat * 3 → s.blen.toNat ≤ s.width.toNat * s.height.toNat * 3 →
    ∃ t, exec .embed s = .next t ∧ t.Succeeded false ∧ s.CommandFrame t ∧ s.SameBits t ∧ t.olen = s.clen ∧
      t.result.toNat = s.blen.toNat ∧
      (∀ i < s.clen.toNat, t.obufAt i =
        if i < s.blen.toNat then (s.cbufAt i &&& 0xFE#8) ||| (if s.bbufAt i then 1#8 else 0#8) else s.cbufAt i) ∧
      ∀ i, s.clen.toNat ≤ i → t.obufAt i = s.obufAt i) ∧
  (∀ s : State, s.params.cbufSize < s.clen.toNat ∨ s.params.bbufSize < s.blen.toNat →
    ∃ t, exec .embed s = .next t ∧ t.FailedWith 12 ∧ s.FailureFrame t) ∧
  (∀ s : State, s.clen.toNat ≤ s.params.cbufSize → s.blen.toNat ≤ s.params.bbufSize → s.bpc ≠ 1#32 →
    ∃ t, exec .embed s = .next t ∧ t.FailedWith 2 ∧ s.FailureFrame t) ∧
  (∀ s : State, s.clen.toNat ≤ s.params.cbufSize → s.blen.toNat ≤ s.params.bbufSize → s.bpc = 1#32 →
    s.clen.toNat ≠ s.width.toNat * s.height.toNat * 3 →
    ∃ t, exec .embed s = .next t ∧ t.FailedWith 10 ∧ s.FailureFrame t) ∧
  ∀ s : State, s.clen.toNat ≤ s.params.cbufSize → s.blen.toNat ≤ s.params.bbufSize → s.bpc = 1#32 →
    s.clen.toNat = s.width.toNat * s.height.toNat * 3 → s.width.toNat * s.height.toNat * 3 < s.blen.toNat →
    ∃ t, exec .embed s = .next t ∧ t.FailedWith 6 ∧ s.FailureFrame t

/-- R220, R222: RESULT takes the length in the low bits of bytes 0 to 31, unchecked against the capacity; the four failures. -/
def Obligations.ExthdrReadsLength : Prop :=
  encode .exthdr = 0x00000008#32 ∧
  (∀ s : State, s.clen.toNat ≤ s.params.cbufSize → s.bpc = 1#32 → s.clen.toNat = s.width.toNat * s.height.toNat * 3 →
    32 ≤ s.clen.toNat →
    ∃ t, exec .exthdr s = .next t ∧ t.Succeeded false ∧ s.CommandFrame t ∧ s.SameBits t ∧ s.SameOutput t ∧
      t.result.toNat = headerValue s.lowBit) ∧
  (∀ s : State, s.params.cbufSize < s.clen.toNat → ∃ t, exec .exthdr s = .next t ∧ t.FailedWith 12 ∧ s.FailureFrame t) ∧
  (∀ s : State, s.clen.toNat ≤ s.params.cbufSize → s.bpc ≠ 1#32 →
    ∃ t, exec .exthdr s = .next t ∧ t.FailedWith 2 ∧ s.FailureFrame t) ∧
  (∀ s : State, s.clen.toNat ≤ s.params.cbufSize → s.bpc = 1#32 → s.clen.toNat ≠ s.width.toNat * s.height.toNat * 3 →
    ∃ t, exec .exthdr s = .next t ∧ t.FailedWith 10 ∧ s.FailureFrame t) ∧
  ∀ s : State, s.clen.toNat ≤ s.params.cbufSize → s.bpc = 1#32 → s.clen.toNat = s.width.toNat * s.height.toNat * 3 →
    s.clen.toNat < 32 → ∃ t, exec .exthdr s = .next t ∧ t.FailedWith 8 ∧ s.FailureFrame t

/-- R221, R223: OBUF takes the L bytes in the low bits from position 32 on, where L is the header's value; the five failures. -/
def Obligations.ExtmsgReadsMessage : Prop :=
  encode .extmsg = 0x00000009#32 ∧
  (∀ s : State, s.clen.toNat ≤ s.params.cbufSize → s.bpc = 1#32 → s.clen.toNat = s.width.toNat * s.height.toNat * 3 →
    32 + 8 * headerValue s.lowBit ≤ s.width.toNat * s.height.toNat * 3 →
    ∃ t, exec .extmsg s = .next t ∧ t.Succeeded false ∧ s.CommandFrame t ∧ s.SameBits t ∧
      t.olen.toNat = headerValue s.lowBit ∧ t.result.toNat = headerValue s.lowBit ∧
      (∀ k < headerValue s.lowBit, ∀ j < 8, (t.obufAt k).getLsbD (7 - j) = s.lowBit (32 + 8 * k + j)) ∧
      ∀ i, headerValue s.lowBit ≤ i → t.obufAt i = s.obufAt i) ∧
  (∀ s : State, s.params.cbufSize < s.clen.toNat → ∃ t, exec .extmsg s = .next t ∧ t.FailedWith 12 ∧ s.FailureFrame t) ∧
  (∀ s : State, s.clen.toNat ≤ s.params.cbufSize → s.bpc ≠ 1#32 →
    ∃ t, exec .extmsg s = .next t ∧ t.FailedWith 2 ∧ s.FailureFrame t) ∧
  (∀ s : State, s.clen.toNat ≤ s.params.cbufSize → s.bpc = 1#32 → s.clen.toNat ≠ s.width.toNat * s.height.toNat * 3 →
    ∃ t, exec .extmsg s = .next t ∧ t.FailedWith 10 ∧ s.FailureFrame t) ∧
  (∀ s : State, s.clen.toNat ≤ s.params.cbufSize → s.bpc = 1#32 → s.clen.toNat = s.width.toNat * s.height.toNat * 3 →
    s.clen.toNat < 32 → ∃ t, exec .extmsg s = .next t ∧ t.FailedWith 8 ∧ s.FailureFrame t) ∧
  ∀ s : State, s.clen.toNat ≤ s.params.cbufSize → s.bpc = 1#32 → s.clen.toNat = s.width.toNat * s.height.toNat * 3 →
    32 ≤ s.clen.toNat → s.width.toNat * s.height.toNat * 3 < 32 + 8 * headerValue s.lowBit →
    ∃ t, exec .extmsg s = .next t ∧ t.FailedWith 7 ∧ s.FailureFrame t

/-! Rules over all commands -/

/-- R243: when several errors apply, the command reports the first in the check order; an illegal word comes before all. -/
def Obligations.ErrorPriority : Prop :=
  (∀ (i : Instr) (s t : State), exec i s = .next t →
    t.errcode.toNat = s.expectedCode i ∧ (t.err = true ↔ s.expectedCode i ≠ 0)) ∧
  ∀ (s t : State) (why : Illegal), decode s.latch = .illegal why → completeLatched s = .next t →
    t.errcode.toNat = 13 ∧ t.err = true

/-- R242: a command that fails writes only STATUS. -/
def Obligations.FailedCommandWritesOnlyStatus : Prop :=
  ∀ s t : State, completeLatched s = .next t → t.err = true → s.FailureFrame t ∧ t.trunc = false

/-- What each command may write (R99): no command writes IBUF, CBUF or an operand register; UNPACK, FRAME and ARBITRATE write
BBUF and leave OBUF; PACK, PARSE, EMBED and EXTMSG write OBUF and leave BBUF; CAPACITY and EXTHDR leave both. -/
def Obligations.CommandsWriteOnlyTheirDestination : Prop :=
  ∀ (i : Instr) (s t : State), exec i s = .next t →
    s.CommandFrame t ∧ (i ∉ [Instr.unpack, .frame, .arbitrate, .arbitrateF] → s.SameBits t) ∧
      (i ∉ [Instr.pack, .parse, .embed, .extmsg] → s.SameOutput t)

/-- The end of `complete()` (R241): whatever the outcome, BUSY = 0, DONE = 1, the latch is cleared, ERR says whether ERRCODE is
not 0, and TRUNC = 1 only after an ARBITRATE that succeeded in keeping fewer bytes than ILEN. -/
def Obligations.CompletionStatus : Prop :=
  ∀ s t : State, completeLatched s = .next t →
    t.busy = false ∧ t.done = true ∧ t.latch = 0#32 ∧ (t.err = true ↔ t.errcode ≠ 0#4) ∧
      (t.trunc = true → decode s.latch = .command .arbitrateF ∧ t.err = false ∧ t.result.toNat < s.ilen.toNat)

/-- No command reads a flag as an operand, and no flag selects what an operation computes (R57). -/
def Obligations.FlagsSelectNothing : Prop :=
  ∀ (i : Instr) (s t : State) (b d e c h : Bit) (code : BitVec 4), exec i s = .next t →
    exec i { s with busy := b, done := d, err := e, trunc := c, herr := h, errcode := code } = .next { t with herr := h }

/-- R194, and the other codes shown unreachable: no command reports InsufficientCapacity, FRAME never PayloadTooLarge (R170),
EXTMSG never TruncatedPayload (R224), and a 14 or 15 is never reported (R240). -/
def Obligations.UnreachableErrors : Prop :=
  ∀ (i : Instr) (s t : State), exec i s = .next t →
    t.errcode ≠ 5#4 ∧ t.errcode.toNat ≤ 13 ∧ (i = .frame → t.errcode ≠ 3#4) ∧ (i = .extmsg → t.errcode ≠ 9#4)

/-- R195: the frame a successful ARBITRATE writes has 32 + 8L' bits, at most the capacity, with F = 1 at most max_bits, and passes
EMBED's capacity check for the same W and H. -/
def Obligations.ArbitrateRespectsBudget : Prop :=
  ∀ s t : State, s.params.Valid →
    (exec .arbitrate s = .next t → t.err = false → t.blen.toNat ≤ s.width.toNat * s.height.toNat * 3) ∧
    (exec .arbitrateF s = .next t → t.err = false →
      t.blen.toNat ≤ 8 * (s.width.toNat * s.height.toNat * 3 * s.fracNum.toNat / s.fracDen.toNat / 8) ∧
      8 * (s.width.toNat * s.height.toNat * 3 * s.fracNum.toNat / s.fracDen.toNat / 8) ≤
        s.width.toNat * s.height.toNat * 3) ∧
    ((exec .arbitrate s = .next t ∨ exec .arbitrateF s = .next t) → t.err = false →
      t.blen.toNat = 32 + 8 * t.result.toNat) ∧
    ((exec .arbitrate s = .next t ∨ exec .arbitrateF s = .next t) → t.err = false →
      t.bpc = 1#32 → ∀ u, exec .embed t = .next u → u.errcode ≠ 6#4)

/-- R198: the outcome of ARBITRATE depends only on W, H, ILEN, IBUF[0..ILEN) and, with F = 1, FRAC_NUM and FRAC_DEN (and on
IBUF_SIZE, a constant of the block). -/
def Obligations.ArbitrateDeterminism : Prop :=
  ∀ (i : Instr) (s s' t t' : State), i = .arbitrate ∨ i = .arbitrateF → s'.params = s.params → s'.width = s.width →
    s'.height = s.height → s'.ilen = s.ilen → (∀ k < s.ilen.toNat, s'.ibufAt k = s.ibufAt k) →
    (i = .arbitrateF → s'.fracNum = s.fracNum ∧ s'.fracDen = s.fracDen) →
    exec i s = .next t → exec i s' = .next t' →
      t'.err = t.err ∧ t'.errcode = t.errcode ∧ t'.trunc = t.trunc ∧
        (t.err = false → t'.result = t.result ∧ t'.blen = t.blen ∧ ∀ j < t.blen.toNat, t'.bbufAt j = t.bbufAt j)

/-! Round trips -/

/-- R144: bits_to_bytes inverts bytes_to_bits and, on lengths that are a multiple of 8, the other way round; and UNPACK then PACK
leaves OBUF[0..ILEN) = IBUF[0..ILEN) and OLEN = ILEN. -/
def Obligations.UnpackPackRoundTrip : Prop :=
  (∀ x : List Byte, bitsToBytes (bytesToBits x) = .ok x) ∧
  (∀ b : List Bit, b.length % 8 = 0 → ∃ x, bitsToBytes b = .ok x ∧ bytesToBits x = b) ∧
  ∀ s : State, s.params.Valid → s.ilen.toNat ≤ s.params.ibufSize →
    ∃ t u, exec .unpack s = .next t ∧ exec .pack t = .next u ∧ u.Succeeded false ∧ u.olen = s.ilen ∧
      ∀ k < s.ilen.toNat, u.obufAt k = s.ibufAt k

/-- R176: FRAME then PARSE gives the message back. -/
def Obligations.FrameParseRoundTrip : Prop :=
  ∀ s : State, s.params.Valid → s.ilen.toNat ≤ s.params.ibufSize →
    ∃ t u, exec .frame s = .next t ∧ exec .parse t = .next u ∧ u.Succeeded false ∧ u.olen = s.ilen ∧
      u.result.toNat = s.ilen.toNat ∧ ∀ k < s.ilen.toNat, u.obufAt k = s.ibufAt k

/-- R226, "decode(embed(cover, frame(M))) == M": FRAME, EMBED, a copy of OBUF[0..CLEN) to CBUF, EXTMSG, for every cover and every
message that fits. `c` is any state with the same registers and sizes whose CBUF holds the copied stego image. -/
def Obligations.EmbedExtractRoundTrip : Prop :=
  ∀ s : State, s.params.Valid → s.ilen.toNat ≤ s.params.ibufSize → s.bpc = 1#32 →
    s.clen.toNat = s.width.toNat * s.height.toNat * 3 → s.clen.toNat ≤ s.params.cbufSize →
    32 + 8 * s.ilen.toNat ≤ s.width.toNat * s.height.toNat * 3 →
    ∃ a b, exec .frame s = .next a ∧ exec .embed a = .next b ∧ b.Succeeded false ∧
      ∀ c : State, b.SameOperandRegisters c → c.params = b.params → (∀ i < s.clen.toNat, c.cbufAt i = b.obufAt i) →
        ∃ d, exec .extmsg c = .next d ∧ d.Succeeded false ∧ d.olen = s.ilen ∧ d.result.toNat = s.ilen.toNat ∧
          ∀ k < s.ilen.toNat, d.obufAt k = s.ibufAt k

/-! Host programs and instances -/

/-- Samples: R121's two encodings, the expansions of `run` and `clrherr` (R120) at one operand each, and two lines of source. That
`wait` is one operation of the host is the model's choice (log 5), and so is the reader of text (log 14). -/
def Obligations.AssemblerEncodings : Prop :=
  assemble [.wr .ilen 2#32] = [.txn (.write 0x00000020#32 .four 0x00000002#32)] ∧
    assemble [.wrb .ibuf 1 0xAD#8] = [.txn (.write 0x10000001#32 .one 0xAD#32)] ∧
    assemble [.run .arbitrateF] = [.txn (.write 0x00000004#32 .four 0x00000106#32), .wait] ∧
    assemble [.clrherr] = [.txn (.write 0x00000008#32 .four 0x00000100#32)] ∧
    parseLine "wrb IBUF[1], 0xAD ; store".toList = some [.wrb .ibuf 1 0xAD#8] ∧
    parseLine "fill IBUF, 0, \"Hi\"".toList = some [.fill .ibuf 0 [0x48#8, 0x69#8]]

/-- `copyout n` (R120, R284) from an idle block: CBUF[0..n) takes OBUF[0..n), one cell at a time, and no other cell, register or
flag changes. The count of 2n steps, one for each host operation, is the model's (log 6), and so is the operation that writes back
the byte last read (log 5). -/
def Obligations.CopyoutCopiesOutput : Prop :=
  ∀ (s : State) (n : Nat) (rest : List HostOp), s.params.Valid → s.busy = false → n ≤ s.params.cbufSize →
    ∃ t, Sys2Proof.core.run (2 * n) { s with host := HostInstr.expand (.copyout n) ++ rest } = .next t ∧
      (∀ i, t.cbufAt i = if i < n then s.obufAt i else s.cbufAt i) ∧ (∀ i, t.ibufAt i = s.ibufAt i) ∧ s.SameBits t ∧
      s.SameOutput t ∧ s.SameOperandRegisters t ∧ t.statusWord = s.statusWord ∧ t.result = s.result ∧ t.params = s.params ∧
      t.host = rest

/-- R98: instances share nothing; a step of one is its own step and leaves every other as it was. -/
def Obligations.InstancesNeverInteract : Prop :=
  ∀ (sys : Instances) (k : Nat) (s : State), sys[k]? = some s →
    ∃ sys' t, stepInstance sys k = some sys' ∧ step s = .next t ∧ sys'[k]? = some t ∧ ∀ j, j ≠ k → sys'[j]? = sys[j]?

/-! Ends of runs -/

/-- The end of a run (R286) is always reached, by the fairness of R287: from every state, whatever the host's program, some number of
steps performs its last operation and leaves BUSY = 0. The program as a finite list and the steps are the model's (log 4, log 5,
log 6). -/
def Obligations.EveryProgramEnds : Prop := ∀ s : State, ∃ t, Reaches s t ∧ t.runEnded = true

/-- What the premises of R286 are good for: in a clean run every command that completes, and not only the last, is a legal word to
which no error of R243 applies, and its completion leaves HERR = 0 and STATUS as after a success. Which step is a completion is the
model's (log 4, log 6). -/
def Obligations.CleanRunCommandsSucceed : Prop :=
  ∀ (k j : Nat) (s t u : State), s.CleanRun k t → j < k → Sys2Proof.core.run j s = .next u → u.busy = true → u.wait = 0 →
    u.herr = false ∧ ∃ i v, decode u.latch = .command i ∧ u.expectedCode i = 0 ∧
      Sys2Proof.core.run (j + 1) s = .next v ∧ v.Succeeded v.trunc
end

