-- ==== Sys2Proof/Laws/Memory.lean ====
section
/-! SUPPORT. What a buffer write does and does not do: read after write, frame, canonical form, bounds. -/

namespace Sys2Proof.Machine

variable {α : Type}

@[simp] theorem Memory.find_nil (i : Nat) : Memory.find ([] : Memory α) i = none := rfl

theorem Memory.find_append (m m' : Memory α) (i : Nat) :
    Memory.find (m ++ m') i = (Memory.find m i).or (Memory.find m' i) := by
  induction m with
  | nil => simp
  | cons c m ih =>
    obtain ⟨k, v⟩ := c
    by_cases h : k = i <;> simp [Memory.find, h, ih]

theorem Memory.find_filter_of_true (m : Memory α) (p : Nat → Bool) {i : Nat} (h : p i = true) :
    Memory.find (m.filter (fun c => p c.1)) i = Memory.find m i := by
  induction m with
  | nil => rfl
  | cons c m ih =>
    obtain ⟨k, v⟩ := c
    by_cases hk : k = i
    · subst hk; simp [Memory.find, h]
    · by_cases hp : p k = true <;> simp [Memory.find, hp, hk, ih]

theorem Memory.find_filter_of_false (m : Memory α) (p : Nat → Bool) {i : Nat} (h : p i = false) :
    Memory.find (m.filter (fun c => p c.1)) i = none := by
  induction m with
  | nil => rfl
  | cons c m ih =>
    obtain ⟨k, v⟩ := c
    by_cases hk : k = i
    · subst hk; simp [h, ih]
    · by_cases hp : p k = true <;> simp [Memory.find, hp, hk, ih]

theorem Memory.find_cells (vs : List α) (i j : Nat) :
    Memory.find (Memory.cells i vs) j = if i ≤ j then vs[j - i]? else none := by
  induction vs generalizing i with
  | nil => simp [Memory.cells]
  | cons v vs ih =>
    rw [Memory.cells, Memory.find, ih]
    by_cases h : i = j
    · simp [h]
    · by_cases h' : i + 1 ≤ j
      · have : j - i = (j - (i + 1)) + 1 := by omega
        simp [h, h', this, show i ≤ j by omega]
      · simp [h, h', show ¬ i ≤ j by omega]

/-- Read after write: a written cell holds its element of the sequence, every other cell what it held. -/
theorem Memory.find_write (m : Memory α) (vs : List α) (i j : Nat) :
    Memory.find (Memory.write m i vs) j =
      if i ≤ j ∧ j < i + vs.length then vs[j - i]? else Memory.find m j := by
  simp only [Memory.write, Memory.find_append, Memory.find_cells]
  by_cases h1 : j < i
  · have hb : (fun k => decide (k < i)) j = true := by simp [h1]
    rw [Memory.find_filter_of_true m (fun k => decide (k < i)) hb,
      Memory.find_filter_of_false m (fun k => decide (i + vs.length ≤ k)) (by simp; omega)]
    simp [show ¬ i ≤ j by omega]
  · rw [Memory.find_filter_of_false m (fun k => decide (k < i)) (by simp; omega)]
    by_cases h2 : i + vs.length ≤ j
    · rw [Memory.find_filter_of_true m (fun k => decide (i + vs.length ≤ k)) (by simp [h2])]
      simp [show i ≤ j by omega, show ¬ j < i + vs.length by omega, show vs.length ≤ j - i by omega]
    · rw [Memory.find_filter_of_false m (fun k => decide (i + vs.length ≤ k)) (by simp; omega)]
      simp [show i ≤ j by omega, show j < i + vs.length by omega]

/-- Read after write, inside the written cells. -/
theorem Memory.find_write_inside (m : Memory α) (vs : List α) {i j : Nat} (hi : i ≤ j) (hj : j - i < vs.length) :
    Memory.find (Memory.write m i vs) j = some vs[j - i] := by
  rw [Memory.find_write, if_pos ⟨hi, by omega⟩, List.getElem?_eq_getElem hj]

/-- The frame of a write. -/
theorem Memory.find_write_outside (m : Memory α) (vs : List α) {i j : Nat} (h : j < i ∨ i + vs.length ≤ j) :
    Memory.find (Memory.write m i vs) j = Memory.find m j := by
  rw [Memory.find_write, if_neg (by omega)]

theorem Memory.mem_cells {vs : List α} {i : Nat} {c : Nat × α} (h : c ∈ Memory.cells i vs) :
    i ≤ c.1 ∧ c.1 < i + vs.length := by
  induction vs generalizing i with
  | nil => simp [Memory.cells] at h
  | cons v vs ih =>
    rcases List.mem_cons.mp h with rfl | h
    · simp
    · have := ih h
      simp only [List.length_cons]
      omega

theorem Memory.cells_wf (vs : List α) (i : Nat) : Memory.wf (Memory.cells i vs) := by
  induction vs generalizing i with
  | nil => exact List.Pairwise.nil
  | cons v vs ih =>
    exact List.pairwise_cons.mpr ⟨fun c hc => by have := Memory.mem_cells hc; omega, ih (i + 1)⟩

/-- A write keeps the canonical form. -/
theorem Memory.write_wf {m : Memory α} (h : Memory.wf m) (i : Nat) (vs : List α) : Memory.wf (Memory.write m i vs) := by
  unfold Memory.write
  refine List.pairwise_append.mpr ⟨List.pairwise_append.mpr ⟨h.filter _, Memory.cells_wf vs i, ?_⟩, h.filter _, ?_⟩
  · intro a ha b hb
    have h1 := (List.mem_filter.mp ha).2
    have h2 := Memory.mem_cells hb
    simp only [decide_eq_true_eq] at h1
    omega
  · intro a ha b hb
    have h2 := (List.mem_filter.mp hb).2
    simp only [decide_eq_true_eq] at h2
    rcases List.mem_append.mp ha with ha | ha
    · have h1 := (List.mem_filter.mp ha).2
      simp only [decide_eq_true_eq] at h1
      omega
    · have h1 := Memory.mem_cells ha
      omega

/-- A write that fits keeps a buffer inside its size. -/
theorem Memory.write_within {m : Memory α} {size i : Nat} {vs : List α} (h : Memory.within size m)
    (hfit : vs = [] ∨ i + vs.length ≤ size) : Memory.within size (Memory.write m i vs) := by
  intro c hc
  rcases List.mem_append.mp hc with hc | hc
  · rcases List.mem_append.mp hc with hc | hc
    · exact h c (List.mem_filter.mp hc).1
    · have h1 := Memory.mem_cells hc
      rcases hfit with rfl | hfit
      · simp at h1; omega
      · omega
  · exact h c (List.mem_filter.mp hc).1

@[simp] theorem readCells_length (cell : Nat → α) (i n : Nat) : (readCells cell i n).length = n := by
  simp [readCells]

@[simp] theorem readCells_getElem (cell : Nat → α) (i n k : Nat) (h : k < (readCells cell i n).length) :
    (readCells cell i n)[k] = cell (i + k) := by
  simp [readCells]

@[simp] theorem readCells_zero (cell : Nat → α) (i : Nat) : readCells cell i 0 = [] := rfl

/-- A read depends only on the cells it reads. -/
theorem readCells_congr {f g : Nat → α} {i n : Nat} (h : ∀ k < n, f (i + k) = g (i + k)) :
    readCells f i n = readCells g i n := by
  apply List.ext_getElem
  · simp
  · intro k hk _
    simp only [readCells_getElem]
    exact h k (by simpa using hk)

end Sys2Proof.Machine
end

