-- ==== Sys2Proof/Laws/State.lean ====
section
/-! SUPPORT. One lemma for each field after each update of the state, so that no proof unfolds a record update. -/

namespace Sys2Proof.Machine

variable (s : State)

/-! `State.raiseHerr`: HERR ← 1. -/

@[simp] theorem State.raiseHerr_busy : s.raiseHerr.busy = s.busy := rfl
@[simp] theorem State.raiseHerr_done : s.raiseHerr.done = s.done := rfl
@[simp] theorem State.raiseHerr_err : s.raiseHerr.err = s.err := rfl
@[simp] theorem State.raiseHerr_trunc : s.raiseHerr.trunc = s.trunc := rfl
@[simp] theorem State.raiseHerr_herr : s.raiseHerr.herr = true := rfl
@[simp] theorem State.raiseHerr_errcode : s.raiseHerr.errcode = s.errcode := rfl
@[simp] theorem State.raiseHerr_latch : s.raiseHerr.latch = s.latch := rfl
@[simp] theorem State.raiseHerr_width : s.raiseHerr.width = s.width := rfl
@[simp] theorem State.raiseHerr_height : s.raiseHerr.height = s.height := rfl
@[simp] theorem State.raiseHerr_bpc : s.raiseHerr.bpc = s.bpc := rfl
@[simp] theorem State.raiseHerr_fracNum : s.raiseHerr.fracNum = s.fracNum := rfl
@[simp] theorem State.raiseHerr_fracDen : s.raiseHerr.fracDen = s.fracDen := rfl
@[simp] theorem State.raiseHerr_ilen : s.raiseHerr.ilen = s.ilen := rfl
@[simp] theorem State.raiseHerr_clen : s.raiseHerr.clen = s.clen := rfl
@[simp] theorem State.raiseHerr_blen : s.raiseHerr.blen = s.blen := rfl
@[simp] theorem State.raiseHerr_olen : s.raiseHerr.olen = s.olen := rfl
@[simp] theorem State.raiseHerr_result : s.raiseHerr.result = s.result := rfl
@[simp] theorem State.raiseHerr_ibuf : s.raiseHerr.ibuf = s.ibuf := rfl
@[simp] theorem State.raiseHerr_cbuf : s.raiseHerr.cbuf = s.cbuf := rfl
@[simp] theorem State.raiseHerr_bbuf : s.raiseHerr.bbuf = s.bbuf := rfl
@[simp] theorem State.raiseHerr_obuf : s.raiseHerr.obuf = s.obuf := rfl
@[simp] theorem State.raiseHerr_params : s.raiseHerr.params = s.params := rfl
@[simp] theorem State.raiseHerr_epoch : s.raiseHerr.epoch = s.epoch := rfl
@[simp] theorem State.raiseHerr_draws : s.raiseHerr.draws = s.draws := rfl
@[simp] theorem State.raiseHerr_wait : s.raiseHerr.wait = s.wait := rfl
@[simp] theorem State.raiseHerr_host : s.raiseHerr.host = s.host := rfl
@[simp] theorem State.raiseHerr_replies : s.raiseHerr.replies = s.replies := rfl

/-! `State.clearHerr`: HERR ← 0. -/

@[simp] theorem State.clearHerr_busy : s.clearHerr.busy = s.busy := rfl
@[simp] theorem State.clearHerr_done : s.clearHerr.done = s.done := rfl
@[simp] theorem State.clearHerr_err : s.clearHerr.err = s.err := rfl
@[simp] theorem State.clearHerr_trunc : s.clearHerr.trunc = s.trunc := rfl
@[simp] theorem State.clearHerr_herr : s.clearHerr.herr = false := rfl
@[simp] theorem State.clearHerr_errcode : s.clearHerr.errcode = s.errcode := rfl
@[simp] theorem State.clearHerr_latch : s.clearHerr.latch = s.latch := rfl
@[simp] theorem State.clearHerr_width : s.clearHerr.width = s.width := rfl
@[simp] theorem State.clearHerr_height : s.clearHerr.height = s.height := rfl
@[simp] theorem State.clearHerr_bpc : s.clearHerr.bpc = s.bpc := rfl
@[simp] theorem State.clearHerr_fracNum : s.clearHerr.fracNum = s.fracNum := rfl
@[simp] theorem State.clearHerr_fracDen : s.clearHerr.fracDen = s.fracDen := rfl
@[simp] theorem State.clearHerr_ilen : s.clearHerr.ilen = s.ilen := rfl
@[simp] theorem State.clearHerr_clen : s.clearHerr.clen = s.clen := rfl
@[simp] theorem State.clearHerr_blen : s.clearHerr.blen = s.blen := rfl
@[simp] theorem State.clearHerr_olen : s.clearHerr.olen = s.olen := rfl
@[simp] theorem State.clearHerr_result : s.clearHerr.result = s.result := rfl
@[simp] theorem State.clearHerr_ibuf : s.clearHerr.ibuf = s.ibuf := rfl
@[simp] theorem State.clearHerr_cbuf : s.clearHerr.cbuf = s.cbuf := rfl
@[simp] theorem State.clearHerr_bbuf : s.clearHerr.bbuf = s.bbuf := rfl
@[simp] theorem State.clearHerr_obuf : s.clearHerr.obuf = s.obuf := rfl
@[simp] theorem State.clearHerr_params : s.clearHerr.params = s.params := rfl
@[simp] theorem State.clearHerr_epoch : s.clearHerr.epoch = s.epoch := rfl
@[simp] theorem State.clearHerr_draws : s.clearHerr.draws = s.draws := rfl
@[simp] theorem State.clearHerr_wait : s.clearHerr.wait = s.wait := rfl
@[simp] theorem State.clearHerr_host : s.clearHerr.host = s.host := rfl
@[simp] theorem State.clearHerr_replies : s.clearHerr.replies = s.replies := rfl

/-! `State.latchCommand`: issue's STATUS and latch effects. -/

@[simp] theorem State.latchCommand_busy (v : Word) : (s.latchCommand v).busy = true := rfl
@[simp] theorem State.latchCommand_done (v : Word) : (s.latchCommand v).done = false := rfl
@[simp] theorem State.latchCommand_err (v : Word) : (s.latchCommand v).err = false := rfl
@[simp] theorem State.latchCommand_trunc (v : Word) : (s.latchCommand v).trunc = false := rfl
@[simp] theorem State.latchCommand_herr (v : Word) : (s.latchCommand v).herr = s.herr := rfl
@[simp] theorem State.latchCommand_errcode (v : Word) : (s.latchCommand v).errcode = 0#4 := rfl
@[simp] theorem State.latchCommand_latch (v : Word) : (s.latchCommand v).latch = v := rfl
@[simp] theorem State.latchCommand_width (v : Word) : (s.latchCommand v).width = s.width := rfl
@[simp] theorem State.latchCommand_height (v : Word) : (s.latchCommand v).height = s.height := rfl
@[simp] theorem State.latchCommand_bpc (v : Word) : (s.latchCommand v).bpc = s.bpc := rfl
@[simp] theorem State.latchCommand_fracNum (v : Word) : (s.latchCommand v).fracNum = s.fracNum := rfl
@[simp] theorem State.latchCommand_fracDen (v : Word) : (s.latchCommand v).fracDen = s.fracDen := rfl
@[simp] theorem State.latchCommand_ilen (v : Word) : (s.latchCommand v).ilen = s.ilen := rfl
@[simp] theorem State.latchCommand_clen (v : Word) : (s.latchCommand v).clen = s.clen := rfl
@[simp] theorem State.latchCommand_blen (v : Word) : (s.latchCommand v).blen = s.blen := rfl
@[simp] theorem State.latchCommand_olen (v : Word) : (s.latchCommand v).olen = s.olen := rfl
@[simp] theorem State.latchCommand_result (v : Word) : (s.latchCommand v).result = s.result := rfl
@[simp] theorem State.latchCommand_ibuf (v : Word) : (s.latchCommand v).ibuf = s.ibuf := rfl
@[simp] theorem State.latchCommand_cbuf (v : Word) : (s.latchCommand v).cbuf = s.cbuf := rfl
@[simp] theorem State.latchCommand_bbuf (v : Word) : (s.latchCommand v).bbuf = s.bbuf := rfl
@[simp] theorem State.latchCommand_obuf (v : Word) : (s.latchCommand v).obuf = s.obuf := rfl
@[simp] theorem State.latchCommand_params (v : Word) : (s.latchCommand v).params = s.params := rfl
@[simp] theorem State.latchCommand_epoch (v : Word) : (s.latchCommand v).epoch = s.epoch := rfl
@[simp] theorem State.latchCommand_draws (v : Word) : (s.latchCommand v).draws = s.draws := rfl
@[simp] theorem State.latchCommand_wait (v : Word) : (s.latchCommand v).wait = s.wait := rfl
@[simp] theorem State.latchCommand_host (v : Word) : (s.latchCommand v).host = s.host := rfl
@[simp] theorem State.latchCommand_replies (v : Word) : (s.latchCommand v).replies = s.replies := rfl

/-! `State.finish`: completion's STATUS and latch effects. -/

@[simp] theorem State.finish_busy (code : BitVec 4) (cut : Bit) : (s.finish code cut).busy = false := rfl
@[simp] theorem State.finish_done (code : BitVec 4) (cut : Bit) : (s.finish code cut).done = true := rfl
@[simp] theorem State.finish_err (code : BitVec 4) (cut : Bit) : (s.finish code cut).err = (code != 0#4) := rfl
@[simp] theorem State.finish_trunc (code : BitVec 4) (cut : Bit) : (s.finish code cut).trunc = cut := rfl
@[simp] theorem State.finish_herr (code : BitVec 4) (cut : Bit) : (s.finish code cut).herr = s.herr := rfl
@[simp] theorem State.finish_errcode (code : BitVec 4) (cut : Bit) : (s.finish code cut).errcode = code := rfl
@[simp] theorem State.finish_latch (code : BitVec 4) (cut : Bit) : (s.finish code cut).latch = 0#32 := rfl
@[simp] theorem State.finish_width (code : BitVec 4) (cut : Bit) : (s.finish code cut).width = s.width := rfl
@[simp] theorem State.finish_height (code : BitVec 4) (cut : Bit) : (s.finish code cut).height = s.height := rfl
@[simp] theorem State.finish_bpc (code : BitVec 4) (cut : Bit) : (s.finish code cut).bpc = s.bpc := rfl
@[simp] theorem State.finish_fracNum (code : BitVec 4) (cut : Bit) : (s.finish code cut).fracNum = s.fracNum := rfl
@[simp] theorem State.finish_fracDen (code : BitVec 4) (cut : Bit) : (s.finish code cut).fracDen = s.fracDen := rfl
@[simp] theorem State.finish_ilen (code : BitVec 4) (cut : Bit) : (s.finish code cut).ilen = s.ilen := rfl
@[simp] theorem State.finish_clen (code : BitVec 4) (cut : Bit) : (s.finish code cut).clen = s.clen := rfl
@[simp] theorem State.finish_blen (code : BitVec 4) (cut : Bit) : (s.finish code cut).blen = s.blen := rfl
@[simp] theorem State.finish_olen (code : BitVec 4) (cut : Bit) : (s.finish code cut).olen = s.olen := rfl
@[simp] theorem State.finish_result (code : BitVec 4) (cut : Bit) : (s.finish code cut).result = s.result := rfl
@[simp] theorem State.finish_ibuf (code : BitVec 4) (cut : Bit) : (s.finish code cut).ibuf = s.ibuf := rfl
@[simp] theorem State.finish_cbuf (code : BitVec 4) (cut : Bit) : (s.finish code cut).cbuf = s.cbuf := rfl
@[simp] theorem State.finish_bbuf (code : BitVec 4) (cut : Bit) : (s.finish code cut).bbuf = s.bbuf := rfl
@[simp] theorem State.finish_obuf (code : BitVec 4) (cut : Bit) : (s.finish code cut).obuf = s.obuf := rfl
@[simp] theorem State.finish_params (code : BitVec 4) (cut : Bit) : (s.finish code cut).params = s.params := rfl
@[simp] theorem State.finish_epoch (code : BitVec 4) (cut : Bit) : (s.finish code cut).epoch = s.epoch := rfl
@[simp] theorem State.finish_draws (code : BitVec 4) (cut : Bit) : (s.finish code cut).draws = s.draws := rfl
@[simp] theorem State.finish_wait (code : BitVec 4) (cut : Bit) : (s.finish code cut).wait = s.wait := rfl
@[simp] theorem State.finish_host (code : BitVec 4) (cut : Bit) : (s.finish code cut).host = s.host := rfl
@[simp] theorem State.finish_replies (code : BitVec 4) (cut : Bit) : (s.finish code cut).replies = s.replies := rfl

/-! `State.writeResult`: RESULT ← r. -/

@[simp] theorem State.writeResult_busy (r : Nat) : (s.writeResult r).busy = s.busy := rfl
@[simp] theorem State.writeResult_done (r : Nat) : (s.writeResult r).done = s.done := rfl
@[simp] theorem State.writeResult_err (r : Nat) : (s.writeResult r).err = s.err := rfl
@[simp] theorem State.writeResult_trunc (r : Nat) : (s.writeResult r).trunc = s.trunc := rfl
@[simp] theorem State.writeResult_herr (r : Nat) : (s.writeResult r).herr = s.herr := rfl
@[simp] theorem State.writeResult_errcode (r : Nat) : (s.writeResult r).errcode = s.errcode := rfl
@[simp] theorem State.writeResult_latch (r : Nat) : (s.writeResult r).latch = s.latch := rfl
@[simp] theorem State.writeResult_width (r : Nat) : (s.writeResult r).width = s.width := rfl
@[simp] theorem State.writeResult_height (r : Nat) : (s.writeResult r).height = s.height := rfl
@[simp] theorem State.writeResult_bpc (r : Nat) : (s.writeResult r).bpc = s.bpc := rfl
@[simp] theorem State.writeResult_fracNum (r : Nat) : (s.writeResult r).fracNum = s.fracNum := rfl
@[simp] theorem State.writeResult_fracDen (r : Nat) : (s.writeResult r).fracDen = s.fracDen := rfl
@[simp] theorem State.writeResult_ilen (r : Nat) : (s.writeResult r).ilen = s.ilen := rfl
@[simp] theorem State.writeResult_clen (r : Nat) : (s.writeResult r).clen = s.clen := rfl
@[simp] theorem State.writeResult_blen (r : Nat) : (s.writeResult r).blen = s.blen := rfl
@[simp] theorem State.writeResult_olen (r : Nat) : (s.writeResult r).olen = s.olen := rfl
@[simp] theorem State.writeResult_result (r : Nat) : (s.writeResult r).result = BitVec.ofNat 64 r := rfl
@[simp] theorem State.writeResult_ibuf (r : Nat) : (s.writeResult r).ibuf = s.ibuf := rfl
@[simp] theorem State.writeResult_cbuf (r : Nat) : (s.writeResult r).cbuf = s.cbuf := rfl
@[simp] theorem State.writeResult_bbuf (r : Nat) : (s.writeResult r).bbuf = s.bbuf := rfl
@[simp] theorem State.writeResult_obuf (r : Nat) : (s.writeResult r).obuf = s.obuf := rfl
@[simp] theorem State.writeResult_params (r : Nat) : (s.writeResult r).params = s.params := rfl
@[simp] theorem State.writeResult_epoch (r : Nat) : (s.writeResult r).epoch = s.epoch := rfl
@[simp] theorem State.writeResult_draws (r : Nat) : (s.writeResult r).draws = s.draws := rfl
@[simp] theorem State.writeResult_wait (r : Nat) : (s.writeResult r).wait = s.wait := rfl
@[simp] theorem State.writeResult_host (r : Nat) : (s.writeResult r).host = s.host := rfl
@[simp] theorem State.writeResult_replies (r : Nat) : (s.writeResult r).replies = s.replies := rfl

/-! `State.issue`: issue. -/

@[simp] theorem State.issue_busy (v : Word) : (s.issue v).busy = true := rfl
@[simp] theorem State.issue_done (v : Word) : (s.issue v).done = false := rfl
@[simp] theorem State.issue_err (v : Word) : (s.issue v).err = false := rfl
@[simp] theorem State.issue_trunc (v : Word) : (s.issue v).trunc = false := rfl
@[simp] theorem State.issue_herr (v : Word) : (s.issue v).herr = s.herr := rfl
@[simp] theorem State.issue_errcode (v : Word) : (s.issue v).errcode = 0#4 := rfl
@[simp] theorem State.issue_latch (v : Word) : (s.issue v).latch = v := rfl
@[simp] theorem State.issue_width (v : Word) : (s.issue v).width = s.width := rfl
@[simp] theorem State.issue_height (v : Word) : (s.issue v).height = s.height := rfl
@[simp] theorem State.issue_bpc (v : Word) : (s.issue v).bpc = s.bpc := rfl
@[simp] theorem State.issue_fracNum (v : Word) : (s.issue v).fracNum = s.fracNum := rfl
@[simp] theorem State.issue_fracDen (v : Word) : (s.issue v).fracDen = s.fracDen := rfl
@[simp] theorem State.issue_ilen (v : Word) : (s.issue v).ilen = s.ilen := rfl
@[simp] theorem State.issue_clen (v : Word) : (s.issue v).clen = s.clen := rfl
@[simp] theorem State.issue_blen (v : Word) : (s.issue v).blen = s.blen := rfl
@[simp] theorem State.issue_olen (v : Word) : (s.issue v).olen = s.olen := rfl
@[simp] theorem State.issue_result (v : Word) : (s.issue v).result = s.result := rfl
@[simp] theorem State.issue_ibuf (v : Word) : (s.issue v).ibuf = s.ibuf := rfl
@[simp] theorem State.issue_cbuf (v : Word) : (s.issue v).cbuf = s.cbuf := rfl
@[simp] theorem State.issue_bbuf (v : Word) : (s.issue v).bbuf = s.bbuf := rfl
@[simp] theorem State.issue_obuf (v : Word) : (s.issue v).obuf = s.obuf := rfl
@[simp] theorem State.issue_params (v : Word) : (s.issue v).params = s.params := rfl
@[simp] theorem State.issue_epoch (v : Word) : (s.issue v).epoch = s.epoch := rfl
@[simp] theorem State.issue_draws (v : Word) : (s.issue v).draws = s.draws + 1 := rfl
@[simp] theorem State.issue_wait (v : Word) : (s.issue v).wait = Config.latency s.draws := rfl
@[simp] theorem State.issue_host (v : Word) : (s.issue v).host = s.host := rfl
@[simp] theorem State.issue_replies (v : Word) : (s.issue v).replies = s.replies := rfl

/-! `State.reply`: a read's value reaches the host. -/

@[simp] theorem State.reply_busy (v : Word) : (s.reply v).busy = s.busy := rfl
@[simp] theorem State.reply_done (v : Word) : (s.reply v).done = s.done := rfl
@[simp] theorem State.reply_err (v : Word) : (s.reply v).err = s.err := rfl
@[simp] theorem State.reply_trunc (v : Word) : (s.reply v).trunc = s.trunc := rfl
@[simp] theorem State.reply_herr (v : Word) : (s.reply v).herr = s.herr := rfl
@[simp] theorem State.reply_errcode (v : Word) : (s.reply v).errcode = s.errcode := rfl
@[simp] theorem State.reply_latch (v : Word) : (s.reply v).latch = s.latch := rfl
@[simp] theorem State.reply_width (v : Word) : (s.reply v).width = s.width := rfl
@[simp] theorem State.reply_height (v : Word) : (s.reply v).height = s.height := rfl
@[simp] theorem State.reply_bpc (v : Word) : (s.reply v).bpc = s.bpc := rfl
@[simp] theorem State.reply_fracNum (v : Word) : (s.reply v).fracNum = s.fracNum := rfl
@[simp] theorem State.reply_fracDen (v : Word) : (s.reply v).fracDen = s.fracDen := rfl
@[simp] theorem State.reply_ilen (v : Word) : (s.reply v).ilen = s.ilen := rfl
@[simp] theorem State.reply_clen (v : Word) : (s.reply v).clen = s.clen := rfl
@[simp] theorem State.reply_blen (v : Word) : (s.reply v).blen = s.blen := rfl
@[simp] theorem State.reply_olen (v : Word) : (s.reply v).olen = s.olen := rfl
@[simp] theorem State.reply_result (v : Word) : (s.reply v).result = s.result := rfl
@[simp] theorem State.reply_ibuf (v : Word) : (s.reply v).ibuf = s.ibuf := rfl
@[simp] theorem State.reply_cbuf (v : Word) : (s.reply v).cbuf = s.cbuf := rfl
@[simp] theorem State.reply_bbuf (v : Word) : (s.reply v).bbuf = s.bbuf := rfl
@[simp] theorem State.reply_obuf (v : Word) : (s.reply v).obuf = s.obuf := rfl
@[simp] theorem State.reply_params (v : Word) : (s.reply v).params = s.params := rfl
@[simp] theorem State.reply_epoch (v : Word) : (s.reply v).epoch = s.epoch := rfl
@[simp] theorem State.reply_draws (v : Word) : (s.reply v).draws = s.draws := rfl
@[simp] theorem State.reply_wait (v : Word) : (s.reply v).wait = s.wait := rfl
@[simp] theorem State.reply_host (v : Word) : (s.reply v).host = s.host := rfl
@[simp] theorem State.reply_replies (v : Word) : (s.reply v).replies = v :: s.replies := rfl

/-! `State.countDraw`: one draw. -/

@[simp] theorem State.countDraw_busy : s.countDraw.busy = s.busy := rfl
@[simp] theorem State.countDraw_done : s.countDraw.done = s.done := rfl
@[simp] theorem State.countDraw_err : s.countDraw.err = s.err := rfl
@[simp] theorem State.countDraw_trunc : s.countDraw.trunc = s.trunc := rfl
@[simp] theorem State.countDraw_herr : s.countDraw.herr = s.herr := rfl
@[simp] theorem State.countDraw_errcode : s.countDraw.errcode = s.errcode := rfl
@[simp] theorem State.countDraw_latch : s.countDraw.latch = s.latch := rfl
@[simp] theorem State.countDraw_width : s.countDraw.width = s.width := rfl
@[simp] theorem State.countDraw_height : s.countDraw.height = s.height := rfl
@[simp] theorem State.countDraw_bpc : s.countDraw.bpc = s.bpc := rfl
@[simp] theorem State.countDraw_fracNum : s.countDraw.fracNum = s.fracNum := rfl
@[simp] theorem State.countDraw_fracDen : s.countDraw.fracDen = s.fracDen := rfl
@[simp] theorem State.countDraw_ilen : s.countDraw.ilen = s.ilen := rfl
@[simp] theorem State.countDraw_clen : s.countDraw.clen = s.clen := rfl
@[simp] theorem State.countDraw_blen : s.countDraw.blen = s.blen := rfl
@[simp] theorem State.countDraw_olen : s.countDraw.olen = s.olen := rfl
@[simp] theorem State.countDraw_result : s.countDraw.result = s.result := rfl
@[simp] theorem State.countDraw_ibuf : s.countDraw.ibuf = s.ibuf := rfl
@[simp] theorem State.countDraw_cbuf : s.countDraw.cbuf = s.cbuf := rfl
@[simp] theorem State.countDraw_bbuf : s.countDraw.bbuf = s.bbuf := rfl
@[simp] theorem State.countDraw_obuf : s.countDraw.obuf = s.obuf := rfl
@[simp] theorem State.countDraw_params : s.countDraw.params = s.params := rfl
@[simp] theorem State.countDraw_epoch : s.countDraw.epoch = s.epoch := rfl
@[simp] theorem State.countDraw_draws : s.countDraw.draws = s.draws + 1 := rfl
@[simp] theorem State.countDraw_wait : s.countDraw.wait = s.wait := rfl
@[simp] theorem State.countDraw_host : s.countDraw.host = s.host := rfl
@[simp] theorem State.countDraw_replies : s.countDraw.replies = s.replies := rfl

/-! `State.resetBlock`: the Reset transaction. -/

@[simp] theorem State.resetBlock_busy : s.resetBlock.busy = false := rfl
@[simp] theorem State.resetBlock_done : s.resetBlock.done = false := rfl
@[simp] theorem State.resetBlock_err : s.resetBlock.err = false := rfl
@[simp] theorem State.resetBlock_trunc : s.resetBlock.trunc = false := rfl
@[simp] theorem State.resetBlock_herr : s.resetBlock.herr = false := rfl
@[simp] theorem State.resetBlock_errcode : s.resetBlock.errcode = 0#4 := rfl
@[simp] theorem State.resetBlock_latch : s.resetBlock.latch = 0#32 := rfl
@[simp] theorem State.resetBlock_width : s.resetBlock.width = 0#16 := rfl
@[simp] theorem State.resetBlock_height : s.resetBlock.height = 0#16 := rfl
@[simp] theorem State.resetBlock_bpc : s.resetBlock.bpc = 1#32 := rfl
@[simp] theorem State.resetBlock_fracNum : s.resetBlock.fracNum = 0#32 := rfl
@[simp] theorem State.resetBlock_fracDen : s.resetBlock.fracDen = 0#32 := rfl
@[simp] theorem State.resetBlock_ilen : s.resetBlock.ilen = 0#32 := rfl
@[simp] theorem State.resetBlock_clen : s.resetBlock.clen = 0#32 := rfl
@[simp] theorem State.resetBlock_blen : s.resetBlock.blen = 0#32 := rfl
@[simp] theorem State.resetBlock_olen : s.resetBlock.olen = 0#32 := rfl
@[simp] theorem State.resetBlock_result : s.resetBlock.result = 0#64 := rfl
@[simp] theorem State.resetBlock_ibuf : s.resetBlock.ibuf = [] := rfl
@[simp] theorem State.resetBlock_cbuf : s.resetBlock.cbuf = [] := rfl
@[simp] theorem State.resetBlock_bbuf : s.resetBlock.bbuf = [] := rfl
@[simp] theorem State.resetBlock_obuf : s.resetBlock.obuf = [] := rfl
@[simp] theorem State.resetBlock_params : s.resetBlock.params = s.params := rfl
@[simp] theorem State.resetBlock_epoch : s.resetBlock.epoch = s.epoch + 1 := rfl
@[simp] theorem State.resetBlock_draws : s.resetBlock.draws = s.draws := rfl
@[simp] theorem State.resetBlock_wait : s.resetBlock.wait = 0 := rfl
@[simp] theorem State.resetBlock_host : s.resetBlock.host = s.host := rfl
@[simp] theorem State.resetBlock_replies : s.resetBlock.replies = s.replies := rfl

/-! `State.writeDest`: the two destinations, and the fields neither touches. -/

@[simp] theorem State.writeDest_none_blen : (s.writeDest .none).blen = s.blen := rfl
@[simp] theorem State.writeDest_none_bbuf : (s.writeDest .none).bbuf = s.bbuf := rfl
@[simp] theorem State.writeDest_none_olen : (s.writeDest .none).olen = s.olen := rfl
@[simp] theorem State.writeDest_none_obuf : (s.writeDest .none).obuf = s.obuf := rfl
@[simp] theorem State.writeDest_bbuf_blen (bits : List Bit) : (s.writeDest (.bbuf bits)).blen = BitVec.ofNat 32 bits.length := rfl
@[simp] theorem State.writeDest_bbuf_bbuf (bits : List Bit) : (s.writeDest (.bbuf bits)).bbuf = Memory.write s.bbuf 0 bits := rfl
@[simp] theorem State.writeDest_bbuf_olen (bits : List Bit) : (s.writeDest (.bbuf bits)).olen = s.olen := rfl
@[simp] theorem State.writeDest_bbuf_obuf (bits : List Bit) : (s.writeDest (.bbuf bits)).obuf = s.obuf := rfl
@[simp] theorem State.writeDest_obuf_blen (bytes : List Byte) : (s.writeDest (.obuf bytes)).blen = s.blen := rfl
@[simp] theorem State.writeDest_obuf_bbuf (bytes : List Byte) : (s.writeDest (.obuf bytes)).bbuf = s.bbuf := rfl
@[simp] theorem State.writeDest_obuf_olen (bytes : List Byte) : (s.writeDest (.obuf bytes)).olen = BitVec.ofNat 32 bytes.length := rfl
@[simp] theorem State.writeDest_obuf_obuf (bytes : List Byte) : (s.writeDest (.obuf bytes)).obuf = Memory.write s.obuf 0 bytes := rfl

@[simp] theorem State.writeDest_busy (d : Destination) : (s.writeDest d).busy = s.busy := by cases d <;> rfl
@[simp] theorem State.writeDest_done (d : Destination) : (s.writeDest d).done = s.done := by cases d <;> rfl
@[simp] theorem State.writeDest_err (d : Destination) : (s.writeDest d).err = s.err := by cases d <;> rfl
@[simp] theorem State.writeDest_trunc (d : Destination) : (s.writeDest d).trunc = s.trunc := by cases d <;> rfl
@[simp] theorem State.writeDest_herr (d : Destination) : (s.writeDest d).herr = s.herr := by cases d <;> rfl
@[simp] theorem State.writeDest_errcode (d : Destination) : (s.writeDest d).errcode = s.errcode := by cases d <;> rfl
@[simp] theorem State.writeDest_latch (d : Destination) : (s.writeDest d).latch = s.latch := by cases d <;> rfl
@[simp] theorem State.writeDest_width (d : Destination) : (s.writeDest d).width = s.width := by cases d <;> rfl
@[simp] theorem State.writeDest_height (d : Destination) : (s.writeDest d).height = s.height := by cases d <;> rfl
@[simp] theorem State.writeDest_bpc (d : Destination) : (s.writeDest d).bpc = s.bpc := by cases d <;> rfl
@[simp] theorem State.writeDest_fracNum (d : Destination) : (s.writeDest d).fracNum = s.fracNum := by cases d <;> rfl
@[simp] theorem State.writeDest_fracDen (d : Destination) : (s.writeDest d).fracDen = s.fracDen := by cases d <;> rfl
@[simp] theorem State.writeDest_ilen (d : Destination) : (s.writeDest d).ilen = s.ilen := by cases d <;> rfl
@[simp] theorem State.writeDest_clen (d : Destination) : (s.writeDest d).clen = s.clen := by cases d <;> rfl
@[simp] theorem State.writeDest_result (d : Destination) : (s.writeDest d).result = s.result := by cases d <;> rfl
@[simp] theorem State.writeDest_ibuf (d : Destination) : (s.writeDest d).ibuf = s.ibuf := by cases d <;> rfl
@[simp] theorem State.writeDest_cbuf (d : Destination) : (s.writeDest d).cbuf = s.cbuf := by cases d <;> rfl
@[simp] theorem State.writeDest_params (d : Destination) : (s.writeDest d).params = s.params := by cases d <;> rfl
@[simp] theorem State.writeDest_epoch (d : Destination) : (s.writeDest d).epoch = s.epoch := by cases d <;> rfl
@[simp] theorem State.writeDest_draws (d : Destination) : (s.writeDest d).draws = s.draws := by cases d <;> rfl
@[simp] theorem State.writeDest_wait (d : Destination) : (s.writeDest d).wait = s.wait := by cases d <;> rfl
@[simp] theorem State.writeDest_host (d : Destination) : (s.writeDest d).host = s.host := by cases d <;> rfl
@[simp] theorem State.writeDest_replies (d : Destination) : (s.writeDest d).replies = s.replies := by cases d <;> rfl

end Sys2Proof.Machine
end

