-- ==== Sys2Proof/Laws/Completion.lean ====
section
/-! SUPPORT. What issue, completion and reset do, said once: the accessors after each, a failure's frame, a success's writes, and the shape of every command. -/

namespace Sys2Proof.Machine

/-! The cells of a buffer depend on that buffer and the epoch alone. -/

theorem State.ibufAt_congr {s t : State} (h : t.ibuf = s.ibuf) (e : t.epoch = s.epoch) (i : Nat) :
    t.ibufAt i = s.ibufAt i := by rw [State.ibufAt, h, e]; rfl

theorem State.cbufAt_congr {s t : State} (h : t.cbuf = s.cbuf) (e : t.epoch = s.epoch) (i : Nat) :
    t.cbufAt i = s.cbufAt i := by rw [State.cbufAt, h, e]; rfl

theorem State.bbufAt_congr {s t : State} (h : t.bbuf = s.bbuf) (e : t.epoch = s.epoch) (i : Nat) :
    t.bbufAt i = s.bbufAt i := by rw [State.bbufAt, h, e]; rfl

theorem State.obufAt_congr {s t : State} (h : t.obuf = s.obuf) (e : t.epoch = s.epoch) (i : Nat) :
    t.obufAt i = s.obufAt i := by rw [State.obufAt, h, e]; rfl

/-! A destination's cells after it is written (R283): the output, then what was there. -/

theorem State.writeDest_bbufAt (s : State) (bits : List Bit) (i : Nat) :
    (s.writeDest (.bbuf bits)).bbufAt i = if h : i < bits.length then bits[i] else s.bbufAt i := by
  split
  · next h =>
    rw [State.bbufAt, State.writeDest_bbuf_bbuf, Memory.find_write_inside _ _ (Nat.zero_le i) (by simpa using h)]
    simp
  · next h =>
    rw [State.bbufAt, State.writeDest_bbuf_bbuf, Memory.find_write_outside _ _ (Or.inr (by omega))]
    simp [State.bbufAt]

theorem State.writeDest_obufAt (s : State) (bytes : List Byte) (i : Nat) :
    (s.writeDest (.obuf bytes)).obufAt i = if h : i < bytes.length then bytes[i] else s.obufAt i := by
  split
  · next h =>
    rw [State.obufAt, State.writeDest_obuf_obuf, Memory.find_write_inside _ _ (Nat.zero_le i) (by simpa using h)]
    simp
  · next h =>
    rw [State.obufAt, State.writeDest_obuf_obuf, Memory.find_write_outside _ _ (Or.inr (by omega))]
    simp [State.obufAt]

/-! `complete()` of R241. -/

@[simp] theorem State.complete_error (s : State) (e : ErrorCode) : s.complete (.error e) = s.finish e.code false := rfl

@[simp] theorem State.complete_ok (s : State) (w : Writes) :
    s.complete (.ok w) = ((s.writeDest w.dest).writeResult w.result).finish 0#4 w.cut := rfl

/-- Whatever its outcome, a completion leaves the operands and the surroundings alone (R99, R246). -/
theorem State.complete_frame (s : State) (r : Result) : s.CommandFrame (s.complete r) := by
  cases r with
  | error e =>
    refine ⟨⟨rfl, rfl, rfl, rfl, rfl, rfl, rfl⟩, ⟨rfl, rfl, rfl, rfl, rfl, rfl, rfl⟩, ⟨?_, ?_⟩⟩
    · exact fun i => State.ibufAt_congr rfl rfl i
    · exact fun i => State.cbufAt_congr rfl rfl i
  | ok w =>
    refine ⟨⟨?_, ?_, ?_, ?_, ?_, ?_, ?_⟩, ⟨?_, ?_, ?_, ?_, ?_, ?_, ?_⟩, ⟨fun i => ?_, fun i => ?_⟩⟩
    case refine_15 => exact State.ibufAt_congr (by simp) (by simp) i
    case refine_16 => exact State.cbufAt_congr (by simp) (by simp) i
    all_goals simp

/-- Every error code is at least 1. -/
theorem ErrorCode.code_ne_zero (e : ErrorCode) : e.code ≠ 0#4 := by cases e <;> decide

/-- A failure: STATUS reports the code. -/
theorem State.complete_error_failed (s : State) (e : ErrorCode) :
    (s.complete (.error e)).FailedWith e.code.toNat :=
  ⟨rfl, rfl, by simp [e.code_ne_zero], rfl, rfl, rfl⟩

/-- A failure writes only STATUS (R242). -/
theorem State.complete_error_frame (s : State) (e : ErrorCode) : s.FailureFrame (s.complete (.error e)) :=
  ⟨s.complete_frame _, ⟨rfl, fun i => State.bbufAt_congr rfl rfl i⟩, ⟨rfl, fun i => State.obufAt_congr rfl rfl i⟩, rfl⟩

/-- A success: STATUS reports DONE and the cut. -/
theorem State.complete_ok_succeeded (s : State) (w : Writes) : (s.complete (.ok w)).Succeeded w.cut :=
  ⟨rfl, rfl, rfl, rfl, rfl, rfl⟩

theorem State.complete_ok_result (s : State) (w : Writes) :
    (s.complete (.ok w)).result = BitVec.ofNat 64 w.result := rfl

/-- A success that writes BBUF: BLEN, the output bits, the rest of BBUF, and OBUF untouched. -/
theorem State.complete_ok_bbuf (s : State) (bits : List Bit) (r : Nat) (cut : Bit) :
    (s.complete (.ok ⟨.bbuf bits, r, cut⟩)).blen = BitVec.ofNat 32 bits.length ∧
      (∀ i (h : i < bits.length), (s.complete (.ok ⟨.bbuf bits, r, cut⟩)).bbufAt i = bits[i]) ∧
      (∀ i, bits.length ≤ i → (s.complete (.ok ⟨.bbuf bits, r, cut⟩)).bbufAt i = s.bbufAt i) ∧
      s.SameOutput (s.complete (.ok ⟨.bbuf bits, r, cut⟩)) := by
  have key : ∀ i, (s.complete (.ok ⟨.bbuf bits, r, cut⟩)).bbufAt i = (s.writeDest (.bbuf bits)).bbufAt i :=
    fun i => State.bbufAt_congr rfl rfl i
  refine ⟨rfl, fun i h => ?_, fun i h => ?_, rfl, fun i => State.obufAt_congr rfl rfl i⟩
  · rw [key, State.writeDest_bbufAt, dif_pos h]
  · rw [key, State.writeDest_bbufAt, dif_neg (by omega)]

/-- A success that writes OBUF: OLEN, the output bytes, the rest of OBUF, and BBUF untouched. -/
theorem State.complete_ok_obuf (s : State) (bytes : List Byte) (r : Nat) (cut : Bit) :
    (s.complete (.ok ⟨.obuf bytes, r, cut⟩)).olen = BitVec.ofNat 32 bytes.length ∧
      (∀ i (h : i < bytes.length), (s.complete (.ok ⟨.obuf bytes, r, cut⟩)).obufAt i = bytes[i]) ∧
      (∀ i, bytes.length ≤ i → (s.complete (.ok ⟨.obuf bytes, r, cut⟩)).obufAt i = s.obufAt i) ∧
      s.SameBits (s.complete (.ok ⟨.obuf bytes, r, cut⟩)) := by
  have key : ∀ i, (s.complete (.ok ⟨.obuf bytes, r, cut⟩)).obufAt i = (s.writeDest (.obuf bytes)).obufAt i :=
    fun i => State.obufAt_congr rfl rfl i
  refine ⟨rfl, fun i h => ?_, fun i h => ?_, rfl, fun i => State.bbufAt_congr rfl rfl i⟩
  · rw [key, State.writeDest_obufAt, dif_pos h]
  · rw [key, State.writeDest_obufAt, dif_neg (by omega)]

/-- A success that writes RESULT alone. -/
theorem State.complete_ok_none (s : State) (r : Nat) (cut : Bit) :
    s.SameBits (s.complete (.ok ⟨.none, r, cut⟩)) ∧ s.SameOutput (s.complete (.ok ⟨.none, r, cut⟩)) :=
  ⟨⟨rfl, fun i => State.bbufAt_congr rfl rfl i⟩, ⟨rfl, fun i => State.obufAt_congr rfl rfl i⟩⟩

/-- The shape of every command: it completes with the outcome of its rule, so nothing else about a completion needs a case
split over the commands. -/
theorem exec_eq_complete (i : Instr) (s : State) : ∃ r, exec i s = .next (s.complete r) := by
  cases i <;> exact ⟨_, rfl⟩

/-- The shape of a step of the core (R241). -/
theorem completeLatched_eq_complete (s : State) : ∃ r, completeLatched s = .next (s.complete r) := by
  unfold completeLatched
  split
  · exact ⟨_, rfl⟩
  · exact exec_eq_complete _ s

/-- Everything a step can do: complete the latched command, count down while the host acts, or let the host act. -/
theorem step_cases {s t : State} (h : step s = .next t) :
    (s.busy = true ∧ s.wait = 0 ∧ completeLatched s = .next t) ∨
      (∃ k, s.busy = true ∧ s.wait = k + 1 ∧ t = State.hostStep { s with wait := k }) ∨
      (s.busy = false ∧ t = s.hostStep) := by
  unfold step at h
  split at h
  · next hb =>
    split at h
    · next hw => exact .inl ⟨hb, hw, h⟩
    · next k hw => exact .inr (.inl ⟨k, hb, hw, (Host.Outcome.next.inj h).symm⟩)
  · next hb => exact .inr (.inr ⟨by simpa using hb, (Host.Outcome.next.inj h).symm⟩)

end Sys2Proof.Machine
end

