-- ==== Sys2Proof/Laws/HostAccess.lean ====
section
/-! SUPPORT. What a host access reaches and what it can do: the address map inverted, and the frame of every access. -/

namespace Sys2Proof.Machine

/-! The address map. -/

/-- A register's address reaches that register (R32, R82). -/
@[simp] theorem target_register (p : Config.Params) (r : Register) :
    target p (BitVec.ofNat 32 r.offset) .four = some (.reg r) := by cases r <;> rfl

theorem atOffset_eq_some {n : Nat} {r : Register} (h : Register.atOffset n = some r) : n = r.offset := by
  unfold Register.atOffset at h
  split at h <;> first | (cases h; rfl) | cases h

/-- Every offset that holds a register is a multiple of 4 below 0x48, and every such offset holds one (R32). -/
theorem atOffset_eq_none_iff (n : Nat) : Register.atOffset n = none ↔ 0x48 ≤ n ∨ n % 4 ≠ 0 := by
  constructor
  · intro h
    by_contra hc
    have h1 : n < 0x48 := by omega
    have h2 : n % 4 = 0 := by omega
    have : ∀ m < 0x48, m % 4 = 0 → Register.atOffset m ≠ none := by decide
    exact this n h1 h2 h
  · intro h
    cases hr : Register.atOffset n with
    | none => rfl
    | some r =>
      exfalso
      have := atOffset_eq_some hr
      subst this
      revert h
      cases r <;> decide

/-- The sizes are within the windows (R9, R81). -/
theorem Buffer.size_le {p : Config.Params} (hp : p.Valid) (b : Buffer) : b.size p ≤ 2 ^ 28 := by
  obtain ⟨h1, h2, h3, h4, h5, h6, h7, h8⟩ := hp
  cases b <;> simp only [Buffer.size] <;> omega

/-- A cell's address reaches that cell with size 1 (R81, R83). -/
theorem target_cell {p : Config.Params} (hp : p.Valid) (b : Buffer) {i : Nat} (h : i < b.size p) :
    target p (BitVec.ofNat 32 (b.base + i)) .one = some (.cell b i) := by
  have hs := Buffer.size_le hp b
  cases b <;> simp only [Buffer.base, Buffer.size] at * <;>
  · simp only [target, BitVec.toNat_ofNat]
    rw [Nat.mod_eq_of_lt (by omega), if_neg (by omega)]
    first
      | rw [show (0x10000000 + i) / 2 ^ 28 = 1 by omega, show (0x10000000 + i) % 2 ^ 28 = i by omega]
      | rw [show (0x20000000 + i) / 2 ^ 28 = 2 by omega, show (0x20000000 + i) % 2 ^ 28 = i by omega]
      | rw [show (0x30000000 + i) / 2 ^ 28 = 3 by omega, show (0x30000000 + i) % 2 ^ 28 = i by omega]
      | rw [show (0x40000000 + i) / 2 ^ 28 = 4 by omega, show (0x40000000 + i) % 2 ^ 28 = i by omega]
    simp [cellTarget, Buffer.ofWindow, Buffer.size, h]

/-- An access that reaches a register has size 4 and the register's offset. -/
theorem target_eq_reg {p : Config.Params} {a : Word} {size : Size} {r : Register}
    (h : target p a size = some (.reg r)) : size = .four ∧ a.toNat = r.offset := by
  unfold target at h
  split at h
  · cases size with
    | one => cases h
    | two => cases h
    | four =>
      refine ⟨rfl, ?_⟩
      simp only [regTarget, Option.map_eq_some_iff] at h
      obtain ⟨r', h1, h2⟩ := h
      cases h2
      exact atOffset_eq_some h1
  · cases size with
    | two => cases h
    | four => cases h
    | one =>
      simp only [cellTarget, Option.bind_eq_some_iff] at h
      obtain ⟨b, -, h2⟩ := h
      split at h2 <;> cases h2

/-- An access that reaches a cell has size 1, and the cell exists at that address. -/
theorem target_eq_cell {p : Config.Params} {a : Word} {size : Size} {b : Buffer} {i : Nat}
    (h : target p a size = some (.cell b i)) : size = .one ∧ i < b.size p ∧ a.toNat = b.base + i := by
  unfold target at h
  split at h
  · cases size with
    | one => cases h
    | two => cases h
    | four =>
      simp only [regTarget, Option.map_eq_some_iff] at h
      obtain ⟨r', h1, h2⟩ := h
      cases h2
  · cases size with
    | two => cases h
    | four => cases h
    | one =>
      simp only [cellTarget, Option.bind_eq_some_iff] at h
      obtain ⟨b', h1, h2⟩ := h
      split at h2
      · next hlt =>
        cases h2
        refine ⟨rfl, hlt, ?_⟩
        have ha := a.isLt
        unfold Buffer.ofWindow at h1
        split at h1 <;> cases h1 <;> simp only [Buffer.base] <;> omega
      · cases h2

/-- The cell of a buffer that an address is the address of, if any. -/
theorem mappedCell_eq {p : Config.Params} {b : Buffer} {a : Nat} (h : MappedCell p b a) :
    ∃ i, i < b.size p ∧ a = b.base + i := ⟨a - b.base, by have := h.2; have := h.1; omega, by have := h.1; omega⟩

/-- An access reaches nothing exactly when it is one of the errors of R245 (a) to (c). -/
theorem target_eq_none_iff {p : Config.Params} (hp : p.Valid) (a : Word) (size : Size) :
    target p a size = none ↔ BadAccess p a size := by
  have hbase : ∀ b : Buffer, 0x10000000 ≤ b.base := fun b => by cases b <;> decide
  constructor
  · intro h
    by_contra hc
    unfold BadAccess at hc
    push Not at hc
    obtain ⟨h1, h2, h3⟩ := hc
    by_cases ha : a.toNat < 0x48
    · obtain ⟨h4, h5⟩ := h1 (by omega)
      subst h4
      have : a.toNat / 2 ^ 28 = 0 := by omega
      simp only [target, this, if_true, regTarget, Option.map_eq_none_iff, atOffset_eq_none_iff] at h
      omega
    · obtain ⟨b, hb⟩ := h3 (by omega)
      have hs := h2 ⟨b, hb⟩
      subst hs
      obtain ⟨i, hi, hai⟩ := mappedCell_eq hb
      have : a = BitVec.ofNat 32 (b.base + i) := by
        rw [← hai]; simp
      rw [this, target_cell hp b hi] at h
      cases h
  · intro h
    cases ht : target p a size with
    | none => rfl
    | some x =>
      exfalso
      cases x with
      | reg r =>
        obtain ⟨h1, h2⟩ := target_eq_reg ht
        have hr : r.offset < 0x48 ∧ r.offset % 4 = 0 := by cases r <;> decide
        rcases h with ⟨_, h | h⟩ | ⟨⟨b, hb⟩, _⟩ | ⟨h, _⟩
        · exact h h1
        · omega
        · have := hb.1; have := hbase b; omega
        · omega
      | cell b i =>
        obtain ⟨h1, h2, h3⟩ := target_eq_cell ht
        have := hbase b
        rcases h with ⟨h, _⟩ | ⟨_, h⟩ | ⟨_, h⟩
        · omega
        · exact h h1
        · exact h b ⟨by omega, by omega⟩

/-! What an access can do. -/

/-- A read is one of: an access error, a free value while BUSY = 1, the value there (R80, R85). -/
theorem State.hostRead_cases (s : State) (a : Word) (size : Size) :
    (target s.params a size = none ∧ s.hostRead a size = s.raiseHerr.reply 0#32) ∨
      (s.busy = true ∧ ∃ v, s.hostRead a size = s.countDraw.reply v) ∨ ∃ v, s.hostRead a size = s.reply v := by
  unfold State.hostRead
  split
  · next h => exact .inl ⟨h, rfl⟩
  · next r h =>
    unfold State.readRegisterAccess
    split
    · next hb => exact .inr (.inl ⟨by simp_all, _, rfl⟩)
    · exact .inr (.inr ⟨_, rfl⟩)
  · next b i h =>
    unfold State.readCellAccess
    split
    · next hb => exact .inr (.inl ⟨by simp_all, _, rfl⟩)
    · exact .inr (.inr ⟨_, rfl⟩)

/-- A write is one of: HERR set, HERR cleared by STATUS, nothing (a STATUS write without bit 8), a register or a cell written
while BUSY = 0 (R80, R85). -/
theorem State.hostWrite_cases (s : State) (a : Word) (size : Size) (v : Word) :
    s.hostWrite a size v = s.raiseHerr ∨
      (target s.params a size = some (.reg .status) ∧ s.hostWrite a size v = s.writeStatus v) ∨
      (∃ r, s.busy = false ∧ r.writable = true ∧ r ≠ .status ∧ target s.params a size = some (.reg r) ∧
        s.hostWrite a size v = s.writeRegister r v) ∨
      ∃ b i, s.busy = false ∧ b.writable = true ∧ target s.params a size = some (.cell b i) ∧
        s.hostWrite a size v = s.writeCell b i (v.setWidth 8) := by
  unfold State.hostWrite
  split
  · exact .inl rfl
  · next r h =>
    unfold State.writeRegisterAccess
    split
    · next hr => exact .inr (.inl ⟨by rw [h, hr], rfl⟩)
    · next hr =>
      split
      · next hw => exact .inr (.inr (.inl ⟨r, by simp_all, by simp_all, hr, h, rfl⟩))
      · exact .inl rfl
  · next b i h =>
    unfold State.writeCellAccess
    split
    · next hw => exact .inr (.inr (.inr ⟨b, i, by simp_all, by simp_all, h, rfl⟩))
    · exact .inl rfl

/-- While a command is in flight a read changes HERR, the draw count and the replies at most. -/
theorem State.hostRead_fields (s : State) (a : Word) (size : Size) :
    ∃ h d r, s.hostRead a size = { s with herr := h, draws := d, replies := r } := by
  rcases s.hostRead_cases a size with ⟨_, h⟩ | ⟨_, v, h⟩ | ⟨v, h⟩ <;> rw [h]
  · exact ⟨true, s.draws, 0#32 :: s.replies, rfl⟩
  · exact ⟨s.herr, s.draws + 1, v :: s.replies, rfl⟩
  · exact ⟨s.herr, s.draws, v :: s.replies, rfl⟩

/-- While a command is in flight a write changes HERR at most (R281). -/
theorem State.hostWrite_busy_fields (s : State) (hb : s.busy = true) (a : Word) (size : Size) (v : Word) :
    ∃ h, s.hostWrite a size v = { s with herr := h } := by
  rcases s.hostWrite_cases a size v with h | ⟨_, h⟩ | ⟨r, hr, _⟩ | ⟨b, i, hr, _⟩
  · exact ⟨true, h⟩
  · rw [h, State.writeStatus]
    split
    · exact ⟨false, rfl⟩
    · exact ⟨s.herr, rfl⟩
  · simp [hb] at hr
  · simp [hb] at hr

/-- While a command is in flight, an operation of the host other than a reset touches HERR, the draw count, the replies and the
host's own program at most; and the program either loses its first operation or stays. -/
theorem State.hostOp_busy_fields (s : State) (hb : s.busy = true) (op : HostOp) (rest : List HostOp)
    (hop : op ≠ .txn .reset) :
    ∃ h d r p, s.hostOp op rest = { s with herr := h, draws := d, replies := r, host := p } ∧
      (p = rest ∨ (op = .wait ∧ p = op :: rest)) := by
  cases op with
  | txn t =>
    cases t with
    | read a size =>
      obtain ⟨h, d, r, e⟩ := s.hostRead_fields a size
      exact ⟨h, d, r, rest, by simp only [State.hostOp, State.transact, e], .inl rfl⟩
    | write a size v =>
      obtain ⟨h, e⟩ := s.hostWrite_busy_fields hb a size v
      exact ⟨h, s.draws, s.replies, rest, by simp only [State.hostOp, State.transact, e], .inl rfl⟩
    | reset => exact absurd rfl hop
  | wait =>
    obtain ⟨h, d, r, e⟩ := s.hostRead_fields statusAddr .four
    refine ⟨h, d, r, if (s.hostRead statusAddr .four).lastReply.getLsbD 0 then .wait :: rest else rest,
      by simp only [State.hostOp, e], ?_⟩
    split
    · exact .inr ⟨rfl, rfl⟩
    · exact .inl rfl
  | writeBack a =>
    obtain ⟨h, e⟩ := s.hostWrite_busy_fields hb a .one s.lastReply
    exact ⟨h, s.draws, s.replies, rest, by simp only [State.hostOp, e], .inl rfl⟩

/-- STATUS reads as it is, always (R35, R85). -/
@[simp] theorem State.hostRead_status (s : State) : s.hostRead statusAddr .four = s.reply s.statusWord := by
  simp [State.hostRead, show target s.params statusAddr .four = some (.reg .status) from target_register s.params .status,
    State.readRegisterAccess, Register.exactWhileBusy, State.readRegister]

/-- Bit 0 of STATUS is BUSY (R35). -/
@[simp] theorem State.statusWord_bit0 (s : State) : s.statusWord.getLsbD 0 = s.busy := by
  have h := BitVec.getLsbD_append (i := 0) (y := BitVec.ofBool s.busy) (x := 0#23 ++ BitVec.ofBool s.herr ++ s.errcode ++
    BitVec.ofBool s.trunc ++ BitVec.ofBool s.err ++ BitVec.ofBool s.done)
  exact h.trans (by cases s.busy <;> rfl)

@[simp] theorem State.lastReply_reply (s : State) (v : Word) : (s.reply v).lastReply = v := rfl

/-- What `wait` does: it reads STATUS, and stays in front while BUSY = 1 (R120). -/
theorem State.hostOp_wait (s : State) (rest : List HostOp) :
    s.hostOp .wait rest = { s.reply s.statusWord with host := if s.busy then .wait :: rest else rest } := by
  simp only [State.hostOp, State.hostRead_status, State.lastReply_reply, State.statusWord_bit0]

end Sys2Proof.Machine
end

