-- ==== Sys2Proof/Laws/Sequences.lean ====
section
/-! SUPPORT. The element laws of the sequence functions: what each output bit or byte is, and how long each output is. -/

namespace Sys2Proof.Machine

@[simp] theorem byteBits_length (b : Byte) : (byteBits b).length = 8 := rfl

theorem byteBits_getElem (b : Byte) (j : Nat) (h : j < 8) : (byteBits b)[j]? = some (b.getLsbD (7 - j)) := by
  rcases j with _ | _ | _ | _ | _ | _ | _ | _ | j <;> first | rfl | omega

@[simp] theorem bytesToBits_nil : bytesToBits [] = [] := rfl

@[simp] theorem bytesToBits_cons (b : Byte) (d : List Byte) : bytesToBits (b :: d) = byteBits b ++ bytesToBits d := rfl

@[simp] theorem bytesToBits_append (d e : List Byte) : bytesToBits (d ++ e) = bytesToBits d ++ bytesToBits e := by
  simp [bytesToBits]

@[simp] theorem bytesToBits_length (d : List Byte) : (bytesToBits d).length = 8 * d.length := by
  induction d with
  | nil => rfl
  | cons b d ih => simp [ih]; omega

/-- Element 8k + i of bytes_to_bits(d) is d[k][7 − i] (R142). -/
theorem bytesToBits_getElem (d : List Byte) (k j : Nat) (hk : k < d.length) (hj : j < 8) :
    (bytesToBits d)[8 * k + j]? = some (d[k].getLsbD (7 - j)) := by
  induction d generalizing k with
  | nil => simp at hk
  | cons b d ih =>
    rw [bytesToBits_cons]
    cases k with
    | zero => rw [List.getElem?_append_left (by simp; omega)]; simpa using byteBits_getElem b j hj
    | succ k =>
      rw [List.getElem?_append_right (by simp; omega)]
      have := ih k (by simpa using hk)
      simp only [byteBits_length, List.getElem_cons_succ]
      rw [← this]
      congr 1
      omega

theorem packByte_getLsbD : ∀ (b0 b1 b2 b3 b4 b5 b6 b7 : Bit) (j : Fin 8),
    (BitVec.ofNat 8 (b0.toNat * 128 + b1.toNat * 64 + b2.toNat * 32 + b3.toNat * 16 + b4.toNat * 8 + b5.toNat * 4 +
      b6.toNat * 2 + b7.toNat)).getLsbD (7 - j) = [b0, b1, b2, b3, b4, b5, b6, b7][j] := by
  decide

theorem packGroups_length (b : List Bit) : (packGroups b).length = b.length / 8 := by
  fun_induction packGroups b with
  | case1 b0 b1 b2 b3 b4 b5 b6 b7 rest ih => simp [ih]; omega
  | case2 b h =>
    rcases b with _ | ⟨b0, _ | ⟨b1, _ | ⟨b2, _ | ⟨b3, _ | ⟨b4, _ | ⟨b5, _ | ⟨b6, _ | ⟨b7, rest⟩⟩⟩⟩⟩⟩⟩⟩ <;>
      first
        | simp; done
        | exact absurd rfl (h _ _ _ _ _ _ _ _ _)

/-- Bit 7 − i of byte k of bits_to_bytes(b) is b[8k + i] (R143). -/
theorem packGroups_getElem (b : List Bit) (k j : Nat) (hk : k < (packGroups b).length) (hj : j < 8) :
    b[8 * k + j]? = some ((packGroups b)[k].getLsbD (7 - j)) := by
  fun_induction packGroups b generalizing k with
  | case1 b0 b1 b2 b3 b4 b5 b6 b7 rest ih =>
    cases k with
    | zero =>
      have := packByte_getLsbD b0 b1 b2 b3 b4 b5 b6 b7 ⟨j, hj⟩
      rw [List.getElem_cons_zero, this]
      rcases j with _ | _ | _ | _ | _ | _ | _ | _ | j <;> first | rfl | omega
    | succ k =>
      have := ih k (by simpa using hk)
      rw [List.getElem_cons_succ, ← this]
      have : 8 * (k + 1) + j = (8 * k + j) + 8 := by omega
      rw [this]
      rfl
  | case2 b h => simp at hk

/-- The value of a sequence with one more bit at its end. -/
theorem bitsValue_concat (b : List Bit) (x : Bit) : bitsValue (b ++ [x]) = 2 * bitsValue b + x.toNat := by
  simp [bitsValue]

/-- bitsValue is the sum of b[i]·2^(n − 1 − i) (R173). -/
theorem bitsValue_eq_sum (b : List Bit) (f : Nat → Bit) (h : ∀ i < b.length, b[i]? = some (f i)) :
    bitsValue b = ∑ i ∈ Finset.range b.length, (f i).toNat * 2 ^ (b.length - 1 - i) := by
  induction b using List.reverseRecOn with
  | nil => rfl
  | append_singleton b x ih =>
    have hb : ∀ i < b.length, b[i]? = some (f i) := fun i hi => by
      have := h i (by simp; omega)
      rwa [List.getElem?_append_left hi] at this
    have hx : f b.length = x := by
      have := h b.length (by simp)
      simpa using this.symm
    rw [bitsValue_concat, ih hb, List.length_append, List.length_singleton, Finset.sum_range_succ, hx, Finset.mul_sum]
    congr 1
    · refine Finset.sum_congr rfl fun i hi => ?_
      have : b.length + 1 - 1 - i = (b.length - 1 - i) + 1 := by have := Finset.mem_range.mp hi; omega
      rw [this, pow_succ]
      ring
    · simp

/-- The value of bits packed in four bytes: parse_frame's header and extract_header's are one number (R173, R224). -/
theorem fromBe32_packGroups (b : List Bit) (h : b.length = 32) : fromBe32 (packGroups b) = bitsValue b := by
  match b, h with
  | [a0, a1, a2, a3, a4, a5, a6, a7, b0, b1, b2, b3, b4, b5, b6, b7, c0, c1, c2, c3, c4, c5, c6, c7, d0, d1, d2, d3, d4,
      d5, d6, d7], _ =>
    have byte : ∀ (e0 e1 e2 e3 e4 e5 e6 e7 : Bit), (BitVec.ofNat 8 (e0.toNat * 128 + e1.toNat * 64 + e2.toNat * 32 +
        e3.toNat * 16 + e4.toNat * 8 + e5.toNat * 4 + e6.toNat * 2 + e7.toNat)).toNat = e0.toNat * 128 + e1.toNat * 64 +
        e2.toNat * 32 + e3.toNat * 16 + e4.toNat * 8 + e5.toNat * 4 + e6.toNat * 2 + e7.toNat := by decide
    simp only [packGroups, fromBe32, byte, bitsValue, List.foldl_cons, List.foldl_nil]
    omega

@[simp] theorem be32_length (n : Nat) : (be32 n).length = 4 := rfl

/-- from_be32 inverts be32 on 32-bit numbers (R17). -/
theorem fromBe32_be32 (n : Nat) (h : n < 2 ^ 32) : fromBe32 (be32 n) = n := by
  simp only [be32, fromBe32, BitVec.toNat_ofNat]
  omega

theorem setLowBit_getLsbD : ∀ (c : Byte) (b : Bit) (j : Fin 8),
    (setLowBit c b).getLsbD j = if j = 0 then b else c.getLsbD j := by
  decide +revert

@[simp] theorem embedBits_length (cover : List Byte) (bits : List Bit) : (embedBits cover bits).length = cover.length := by
  fun_induction embedBits cover bits <;> simp_all

/-- out[i] = (cover[i] & 0xFE) | bits[i] below |bits|, cover[i] from there on (R211). -/
theorem embedBits_getElem (cover : List Byte) (bits : List Bit) (i : Nat) (h : i < cover.length) :
    (embedBits cover bits)[i]? = some (match bits[i]? with | some b => setLowBit cover[i] b | none => cover[i]) := by
  induction cover generalizing bits i with
  | nil => simp at h
  | cons c cover ih =>
    cases bits with
    | nil =>
      have : embedBits (c :: cover) [] = c :: cover := rfl
      rw [this, List.getElem?_eq_getElem h]; rfl
    | cons b bits =>
      cases i with
      | zero => rfl
      | succ i =>
        have := ih bits i (by simpa using h)
        simp only [embedBits, List.getElem?_cons_succ, List.getElem_cons_succ]
        exact this

@[simp] theorem lsbs_length (stego : List Byte) (n : Nat) : (lsbs stego n).length = min n stego.length := by
  simp [lsbs]

/-- lsbs(s, n)[i] = s[i] & 1 (R222). -/
theorem lsbs_getElem (stego : List Byte) (n i : Nat) (hn : i < n) (h : i < stego.length) :
    (lsbs stego n)[i]? = some (stego[i].getLsbD 0) := by
  simp [lsbs, hn, h]

theorem lsbs_take (stego : List Byte) (n m : Nat) : (lsbs stego n).take m = lsbs stego (min m n) := by
  simp [lsbs, List.map_take, List.take_take]

/-- max_bits never exceeds the capacity for a legal fraction (R195). -/
theorem maxBits_le (c num den : Nat) (h : num ≤ den) : maxBits c num den ≤ c := by
  have h1 : c * num / den ≤ c := by
    rcases Nat.eq_zero_or_pos den with rfl | hd
    · simp
    · exact Nat.div_le_of_le_mul (by rw [Nat.mul_comm den c]; exact Nat.mul_le_mul_left c h)
  have h2 := Nat.mul_div_le (c * num / den) 8
  unfold maxBits
  omega

/-- max_bits is a multiple of 8 (R191). -/
theorem maxBits_mod (c num den : Nat) : maxBits c num den % 8 = 0 := by simp [maxBits]

/-- Row-major order stays inside W·H·3 (R18). -/
theorem pixelIndex_lt (w h x y c : Nat) (hx : x < w) (hy : y < h) (hc : c < 3) : pixelIndex w x y c < w * h * 3 := by
  have h1 : y * w + x < h * w := by
    have := Nat.mul_le_mul_right w (show y + 1 ≤ h from hy)
    rw [Nat.add_mul, Nat.one_mul] at this
    omega
  have h2 : w * h = h * w := Nat.mul_comm w h
  simp only [pixelIndex, Config.channels]
  omega

end Sys2Proof.Machine
end

