-- ==== Sys2Proof/Laws/Operands.lean ====
section
/-! SUPPORT. The operands of the commands and their checks in arithmetic, and one spec lemma for each function a command is defined through. -/

namespace Sys2Proof.Machine

@[simp] theorem State.pixelCount_eq (s : State) : s.pixelCount = s.width.toNat * s.height.toNat * 3 := rfl

/-! The checks of R243. -/

theorem State.ilenTooLarge_iff (s : State) : s.ilenTooLarge = true ↔ s.params.ibufSize < s.ilen.toNat := by
  simp [State.ilenTooLarge]

theorem State.blenTooLarge_iff (s : State) : s.blenTooLarge = true ↔ s.params.bbufSize < s.blen.toNat := by
  simp [State.blenTooLarge]

theorem State.clenTooLarge_iff (s : State) : s.clenTooLarge = true ↔ s.params.cbufSize < s.clen.toNat := by
  simp [State.clenTooLarge]

theorem State.shapeDiffers_iff (s : State) :
    s.shapeDiffers = true ↔ s.clen.toNat ≠ s.width.toNat * s.height.toNat * 3 := by
  simp [State.shapeDiffers]

theorem State.fractionInvalid_iff (s : State) :
    s.fractionInvalid = true ↔ ¬ (0 < s.fracNum.toNat ∧ s.fracNum.toNat ≤ s.fracDen.toNat) := by
  simp only [State.fractionInvalid, Bool.or_eq_true, decide_eq_true_eq]
  omega

/-! The operand sequences (R117). -/

@[simp] theorem State.message_length (s : State) : s.message.length = s.ilen.toNat := by simp [State.message]

@[simp] theorem State.bits_length (s : State) : s.bits.length = s.blen.toNat := by simp [State.bits]

@[simp] theorem State.pixels_length (s : State) : s.pixels.length = s.clen.toNat := by simp [State.pixels]

@[simp] theorem State.message_getElem (s : State) (k : Nat) (h : k < s.message.length) : s.message[k] = s.ibufAt k := by
  simp [State.message]

@[simp] theorem State.bits_getElem (s : State) (k : Nat) (h : k < s.bits.length) : s.bits[k] = s.bbufAt k := by
  simp [State.bits]

@[simp] theorem State.pixels_getElem (s : State) (k : Nat) (h : k < s.pixels.length) : s.pixels[k] = s.cbufAt k := by
  simp [State.pixels]

/-! The capacity (R161). -/

theorem State.capacity_supported (s : State) (h : s.bpc = 1#32) :
    s.capacity = .ok (s.width.toNat * s.height.toNat * 3) := by
  simp [State.capacity, capacityBits, h, Config.bpcSupported, Config.channels]

theorem State.capacity_unsupported (s : State) (h : s.bpc ≠ 1#32) : s.capacity = .error .unsupportedDepth := by
  have : s.bpc.toNat ≠ 1 := fun e => h (BitVec.eq_of_toNat_eq e)
  simp [State.capacity, capacityBits, Config.bpcSupported, this]

/-- Every capacity is below 2^34 (R46). -/
theorem State.capacity_lt (s : State) : s.width.toNat * s.height.toNat * 3 < 2 ^ 34 := by
  have h1 := s.width.isLt
  have h2 := s.height.isLt
  have := Nat.mul_le_mul (show s.width.toNat ≤ 65535 by omega) (show s.height.toNat ≤ 65535 by omega)
  omega

/-! The frame (R172). -/

theorem bytesToBits_getElem_of_lt (d : List Byte) (k j : Nat) (hk : k < d.length) (hj : j < 8)
    (h : 8 * k + j < (bytesToBits d).length) : (bytesToBits d)[8 * k + j] = d[k].getLsbD (7 - j) := by
  have := bytesToBits_getElem d k j hk hj
  rw [List.getElem?_eq_getElem h] at this
  exact Option.some.inj this

/-- The bits of be32(n) are the bits 31 down to 0 of n (R86). -/
theorem bytesToBits_be32 (n i : Nat) (h : i < 32) : (bytesToBits (be32 n))[i]? = some (n.testBit (31 - i)) := by
  obtain ⟨k, j, hj, rfl⟩ : ∃ k j, j < 8 ∧ i = 8 * k + j := ⟨i / 8, i % 8, by omega, by omega⟩
  have hk : k < 4 := by omega
  rw [bytesToBits_getElem (be32 n) k j (by simpa using hk) hj]
  have byte : ∀ m, (BitVec.ofNat 8 (n / 2 ^ m)).getLsbD (7 - j) = n.testBit (m + (7 - j)) := by
    intro m
    have hj7 : 7 - j < 8 := by omega
    rw [BitVec.getLsbD_ofNat, ← Nat.shiftRight_eq_div_pow, Nat.testBit_shiftRight]
    simp [hj7]
  congr 1
  interval_cases k
  · exact (byte 24).trans (by congr 1; omega)
  · exact (byte 16).trans (by congr 1; omega)
  · exact (byte 8).trans (by congr 1; omega)
  · have := byte 0
    rw [Nat.pow_zero, Nat.div_one] at this
    exact this.trans (by congr 1; omega)

theorem buildFrame_ok (msg : List Byte) (h : msg.length < 2 ^ 32) :
    buildFrame msg = .ok (bytesToBits (be32 msg.length ++ msg)) := by
  have : ¬ Config.maxMsgLen < msg.length := by simp only [Config.maxMsgLen]; omega
  simp [buildFrame, this]

theorem frame_length (n : Nat) (msg : List Byte) : (bytesToBits (be32 n ++ msg)).length = 32 + 8 * msg.length := by
  simp

theorem frame_headerBit (n : Nat) (msg : List Byte) (i : Nat) (h : i < 32) :
    (bytesToBits (be32 n ++ msg))[i]? = some (n.testBit (31 - i)) := by
  rw [bytesToBits_append, List.getElem?_append_left (by simpa using h), bytesToBits_be32 n i h]

theorem frame_payloadBit (n : Nat) (msg : List Byte) (k j : Nat) (hk : k < msg.length) (hj : j < 8) :
    (bytesToBits (be32 n ++ msg))[32 + 8 * k + j]? = some (msg[k].getLsbD (7 - j)) := by
  have l4 : (bytesToBits (be32 n)).length = 32 := by simp
  rw [bytesToBits_append, List.getElem?_append_right (by omega), l4, show 32 + 8 * k + j - 32 = 8 * k + j by omega]
  exact bytesToBits_getElem msg k j hk hj

/-! Parsing (R173). -/

/-- A header is below 2^32. -/
theorem headerValue_lt (b : Nat → Bit) : headerValue b < 2 ^ 32 := by
  have key : ∀ n, ∑ i ∈ Finset.range n, (b i).toNat * 2 ^ (n - 1 - i) < 2 ^ n := by
    intro n
    induction n with
    | zero => simp
    | succ n ih =>
      have step : ∑ i ∈ Finset.range n, (b i).toNat * 2 ^ (n + 1 - 1 - i) =
          2 * ∑ i ∈ Finset.range n, (b i).toNat * 2 ^ (n - 1 - i) := by
        rw [Finset.mul_sum]
        refine Finset.sum_congr rfl fun i hi => ?_
        have : n + 1 - 1 - i = (n - 1 - i) + 1 := by have := Finset.mem_range.mp hi; omega
        rw [this, pow_succ]
        ring
      have hb : (b n).toNat ≤ 1 := by cases b n <;> decide
      rw [Finset.sum_range_succ, step, pow_succ]
      simp
      omega
  exact key 32

/-- The header of a bit sequence whose first 32 elements are given. -/
theorem bitsValue_header (b : List Bit) (f : Nat → Bit) (hlen : 32 ≤ b.length) (h : ∀ i < 32, b[i]? = some (f i)) :
    bitsValue (b.take 32) = headerValue f := by
  have hl : (b.take 32).length = 32 := by simp [hlen]
  rw [bitsValue_eq_sum (b.take 32) f, hl]
  · rfl
  · intro i hi
    rw [hl] at hi
    rw [List.getElem?_take_of_lt hi, h i hi]

theorem parseFrame_short (b : List Bit) (h : b.length < 32) : parseFrame b = .error .truncatedHeader := by
  simp [parseFrame, Config.hdrBits, h]

theorem parseFrame_truncated (b : List Bit) (h : 32 ≤ b.length) (h' : b.length < 32 + 8 * bitsValue (b.take 32)) :
    parseFrame b = .error .truncatedPayload := by
  have : ¬ b.length < 32 := by omega
  simp [parseFrame, Config.hdrBits, frameBits, this, h']

theorem parseFrame_ok (b : List Bit) (h : 32 + 8 * bitsValue (b.take 32) ≤ b.length) :
    parseFrame b = .ok (bitsValue (b.take 32), packGroups ((b.drop 32).take (8 * bitsValue (b.take 32)))) := by
  have h1 : ¬ b.length < 32 := by omega
  have h2 : ¬ b.length < 32 + 8 * bitsValue (b.take 32) := by omega
  simp [parseFrame, Config.hdrBits, frameBits, h1, h2]

theorem payload_length (b : List Bit) (n : Nat) (h : 32 + 8 * n ≤ b.length) :
    (packGroups ((b.drop 32).take (8 * n))).length = n := by
  have hl : ((b.drop 32).take (8 * n)).length = 8 * n := by simp; omega
  rw [packGroups_length, hl]
  omega

theorem payload_bit (b : List Bit) (n k j : Nat) (h : 32 + 8 * n ≤ b.length)
    (hk : k < (packGroups ((b.drop 32).take (8 * n))).length) (hj : j < 8) :
    b[32 + 8 * k + j]? = some ((packGroups ((b.drop 32).take (8 * n)))[k].getLsbD (7 - j)) := by
  have hn := payload_length b n h
  rw [← packGroups_getElem _ k j hk hj, List.getElem?_take_of_lt (by omega), List.getElem?_drop]
  congr 1
  omega

/-! Extraction (R222, R223). -/

theorem State.lsbs_pixels (s : State) (n i : Nat) (h : i < n) (hn : n ≤ s.clen.toNat) :
    (lsbs s.pixels n)[i]? = some (s.lowBit i) := by
  rw [lsbs_getElem s.pixels n i h (by simp; omega), State.pixels_getElem]
  rfl

theorem State.extractHeader_ok (s : State) (h : 32 ≤ s.clen.toNat) :
    extractHeader s.pixels = .ok (headerValue s.lowBit) := by
  have h1 : ¬ s.pixels.length < 32 := by simp; omega
  have hl : (lsbs s.pixels 32).length = 32 := by simp; omega
  have hv := bitsValue_header (lsbs s.pixels 32) s.lowBit (by omega) (fun i hi => s.lsbs_pixels 32 i hi h)
  rw [List.take_of_length_le (by omega)] at hv
  simp only [extractHeader, Config.hdrBits, h1, if_false, fromBe32_packGroups _ hl, hv]

theorem State.extractHeader_short (s : State) (h : s.clen.toNat < 32) :
    extractHeader s.pixels = .error .truncatedHeader := by
  simp [extractHeader, Config.hdrBits, h]

end Sys2Proof.Machine
end

