-- ==== Sys2Proof/Laws/PerInstr.lean ====
section
/-! SUPPORT. Facts about every command as syntax, one lemma for each constructor. -/

namespace Sys2Proof.Laws.LegalFields

/-- The fields that encode a command are those of a legal word (R110, R114), and the encoded word splits into just those
fields. -/
def Statement (i : Instr) : Prop :=
  i.wellFormed = true ∧ i.fields.wellFormed = true ∧ Cmd32.ofWord (encode i) = i.fields

theorem unpack : Statement .unpack := by unfold Statement; decide
theorem pack : Statement .pack := by unfold Statement; decide
theorem capacity : Statement .capacity := by unfold Statement; decide
theorem frame : Statement .frame := by unfold Statement; decide
theorem parse : Statement .parse := by unfold Statement; decide
theorem arbitrate : Statement .arbitrate := by unfold Statement; decide
theorem arbitrateF : Statement .arbitrateF := by unfold Statement; decide
theorem embed : Statement .embed := by unfold Statement; decide
theorem exthdr : Statement .exthdr := by unfold Statement; decide
theorem extmsg : Statement .extmsg := by unfold Statement; decide

end Sys2Proof.Laws.LegalFields
end

