-- ==== Sys2Proof/Laws/Step.lean ====
section
/-! SUPPORT. The three shapes of a step, and runs as steps put end to end. -/

namespace Sys2Proof.Machine

/-- A command that is due completes (R241). -/
theorem step_due {s : State} (hb : s.busy = true) (hw : s.wait = 0) : step s = completeLatched s := by
  simp only [step, hb, if_true, hw]

/-- A command that is not due yet: the countdown goes down and the host acts (R93). -/
theorem step_waiting {s : State} {k : Nat} (hb : s.busy = true) (hw : s.wait = k + 1) :
    step s = .next (State.hostStep { s with wait := k }) := by
  unfold step
  rw [if_pos hb, hw]

/-- No command in flight: the host acts (R92). -/
theorem step_idle {s : State} (hb : s.busy = false) : step s = .next s.hostStep := by
  unfold step
  rw [if_neg (by simp [hb])]

@[simp] theorem core_step (s : State) : Sys2Proof.core.step s = step s := rfl

@[simp] theorem run_zero (s : State) : Sys2Proof.core.run 0 s = .next s := rfl

/-- A run whose first step answers a next state goes on from there. -/
theorem run_succ {s t : State} (k : Nat) (h : step s = .next t) :
    Sys2Proof.core.run (k + 1) s = Sys2Proof.core.run k t := by
  simp only [Host.Core.run, core_step]
  rw [h]

/-- A run in two parts. -/
theorem run_add {k : Nat} (m : Nat) {s t : State} (h : Sys2Proof.core.run k s = .next t) :
    Sys2Proof.core.run (k + m) s = Sys2Proof.core.run m t := by
  induction k generalizing s with
  | zero => cases h; rw [Nat.zero_add]
  | succ k ih =>
    rw [Nat.add_right_comm]
    cases hs : step s with
    | next u => rw [run_succ _ hs] at h ⊢; exact ih h
    | fault r => exact nomatch r
    | refused r => simp only [Host.Core.run, core_step] at h; rw [hs] at h; exact nomatch h

theorem reaches_self (s : State) : Reaches s s := ⟨0, rfl⟩

/-- What is reached from the state after a step is reached from the state before it. -/
theorem reaches_step {s u t : State} (h : step s = .next u) (hr : Reaches u t) : Reaches s t :=
  hr.elim fun k hk => ⟨k + 1, by rw [run_succ k h, hk]⟩

end Sys2Proof.Machine
end

