-- ==== Sys2Proof/Tests/Slice0.lean ====
section
/-! SUPPORT. The model's own tests: the well-formedness smoke tests, words and vectors of the spec, and a witness for the hypotheses of every statement. -/

namespace Sys2Proof.Machine

/-! Well-formedness: one ill-formed term for each check (R110, R112 to R114), and for each constraint of R9. -/

theorem test_wellFormed_refuses_rsv0 : Cmd32.wellFormed ⟨1#4, 1#4, false, 0#23⟩ = false := by decide
theorem test_wellFormed_refuses_rsv1 : Cmd32.wellFormed ⟨6#4, 0#4, false, 0x400000#23⟩ = false := by decide
theorem test_wellFormed_refuses_opcode_0 : Cmd32.wellFormed ⟨0#4, 0#4, false, 0#23⟩ = false := by decide
theorem test_wellFormed_refuses_opcode_10 : Cmd32.wellFormed ⟨0xA#4, 0#4, false, 0#23⟩ = false := by decide
theorem test_wellFormed_refuses_fraction_on_embed : Cmd32.wellFormed ⟨7#4, 0#4, true, 0#23⟩ = false := by decide
theorem test_wellFormed_accepts_fraction_on_arbitrate : Cmd32.wellFormed ⟨6#4, 0#4, true, 0#23⟩ = true := by decide
theorem test_params_reference_valid : Config.reference.Valid := by decide
theorem test_params_refuse_no_ibuf : ¬ Config.Params.Valid ⟨0, 1, 32, 4⟩ := by decide
theorem test_params_refuse_short_bbuf : ¬ Config.Params.Valid ⟨4096, 262144, 32799, 262144⟩ := by decide
theorem test_params_refuse_no_cbuf : ¬ Config.Params.Valid ⟨1, 0, 40, 5⟩ := by decide
theorem test_params_refuse_wide_cbuf : ¬ Config.Params.Valid ⟨1, 2 ^ 28 + 1, 40, 2 ^ 28 + 1⟩ := by decide
theorem test_params_refuse_short_obuf : ¬ Config.Params.Valid ⟨1, 6, 40, 5⟩ := by decide
theorem test_params_refuse_obuf_below_bbuf : ¬ Config.Params.Valid ⟨1, 1, 48, 5⟩ := by decide
theorem test_params_accept_smallest : Config.Params.Valid ⟨1, 1, 40, 5⟩ := by decide

/-! Decoding: the ten words of R112, written bit by bit from R110 as RSV1, F, RSV0 and OPC. -/

theorem test_decode_unpack : decode 0b00000000000000000000000_0_0000_0001#32 = .command .unpack := by decide
theorem test_decode_pack : decode 0b00000000000000000000000_0_0000_0010#32 = .command .pack := by decide
theorem test_decode_capacity : decode 0b00000000000000000000000_0_0000_0011#32 = .command .capacity := by decide
theorem test_decode_frame : decode 0b00000000000000000000000_0_0000_0100#32 = .command .frame := by decide
theorem test_decode_parse : decode 0b00000000000000000000000_0_0000_0101#32 = .command .parse := by decide
theorem test_decode_arbitrate : decode 0b00000000000000000000000_0_0000_0110#32 = .command .arbitrate := by decide
theorem test_decode_arbitrateF : decode 0b00000000000000000000000_1_0000_0110#32 = .command .arbitrateF := by decide
theorem test_decode_embed : decode 0b00000000000000000000000_0_0000_0111#32 = .command .embed := by decide
theorem test_decode_exthdr : decode 0b00000000000000000000000_0_0000_1000#32 = .command .exthdr := by decide
theorem test_decode_extmsg : decode 0b00000000000000000000000_0_0000_1001#32 = .command .extmsg := by decide

/-! The illegal words E5 to E12 of spec/95. -/

theorem test_decode_E5 : decode 0x00000000#32 = .illegal .opcodeUnassigned := by decide
theorem test_decode_E6 : decode 0x0000000A#32 = .illegal .opcodeUnassigned := by decide
theorem test_decode_E7 : decode 0x0000000F#32 = .illegal .opcodeUnassigned := by decide
theorem test_decode_E8 : decode 0x00000101#32 = .illegal .fractionBitMisplaced := by decide
theorem test_decode_E9 : decode 0x00000107#32 = .illegal .fractionBitMisplaced := by decide
theorem test_decode_E10 : decode 0x00000011#32 = .illegal .reservedBitSet := by decide
theorem test_decode_E11 : decode 0x80000006#32 = .illegal .reservedBitSet := by decide
theorem test_decode_E12 : decode 0x00000206#32 = .illegal .reservedBitSet := by decide
theorem test_decodeTableWord : decodeTableWord 32 0x106 = some .arbitrateF := by decide
theorem test_decodeTableWord_illegal : decodeTableWord 32 0x107 = none := by decide

/-! Helpers: small states whose cells are all written, and the state after a command or after a step. -/

/-- The state a step or a command answers. -/
def answered : Host.Outcome State Fault Refusal → Option State
  | .next s => some s
  | .fault _ => none
  | .refused _ => none

/-- STATUS, RESULT, BLEN and OLEN after a command. -/
def registersAfter (i : Instr) (s : State) : Option (Nat × Nat × Nat × Nat) :=
  (answered (exec i s)).map (fun t => (t.statusWord.toNat, t.result.toNat, t.blen.toNat, t.olen.toNat))

/-- The first `n` cells of BBUF after a command. -/
def bitsAfter (i : Instr) (s : State) (n : Nat) : Option (List Bit) :=
  (answered (exec i s)).map (fun t => readCells t.bbufAt 0 n)

/-- The first `n` cells of OBUF after a command. -/
def outputAfter (i : Instr) (s : State) (n : Nat) : Option (List Byte) :=
  (answered (exec i s)).map (fun t => readCells t.obufAt 0 n)

/-- A message in IBUF. -/
def withMessage (bytes : List Byte) : State :=
  { State.reset with ilen := BitVec.ofNat 32 bytes.length, ibuf := Memory.cells 0 bytes }

/-- A bit sequence in BBUF. -/
def withBits (bits : List Bit) : State :=
  { State.reset with blen := BitVec.ofNat 32 bits.length, bbuf := Memory.cells 0 bits }

/-- A message to arbitrate for a W × 1 image with a fraction. -/
def withBudget (w : Nat) (num den : Nat) (bytes : List Byte) : State :=
  { withMessage bytes with
    width := BitVec.ofNat 16 w, height := 1#16, fracNum := BitVec.ofNat 32 num, fracDen := BitVec.ofNat 32 den }

/-- A W × 1 pixel buffer in CBUF and a bit sequence in BBUF. -/
def withImage (w : Nat) (pixels : List Byte) (bits : List Bit) : State :=
  { State.reset with
    width := BitVec.ofNat 16 w, height := 1#16, clen := BitVec.ofNat 32 pixels.length, cbuf := Memory.cells 0 pixels,
    blen := BitVec.ofNat 32 bits.length, bbuf := Memory.cells 0 bits }

/-- The bits of a number, most significant first. -/
def bitString (n width : Nat) : List Bit := (List.range width).map (fun i => n.testBit (width - 1 - i))

/-- The stego image of vector M2. -/
def stegoM2 : List Byte :=
  List.replicate 30 0x80#8 ++ [0x81#8, 0x80#8, 0x80#8, 0x81#8, 0x80#8, 0x80#8, 0x81#8, 0x80#8, 0x80#8, 0x80#8, 0x80#8,
    0x81#8, 0x81#8, 0x80#8, 0x81#8, 0x80#8, 0x80#8, 0x81#8]

/-! The vectors of spec/95, at most two for each command. -/

theorem test_unpack_U1 : bitsAfter .unpack (withMessage [0xDE#8, 0xAD#8]) 16 = some (bitString 0b1101111010101101 16) := by
  decide
theorem test_unpack_U5 : registersAfter .unpack { State.reset with ilen := 4097#32, blen := 9#32 } = some (0xC6, 0, 9, 0) := by
  decide
theorem test_pack_P2v : outputAfter .pack (withBits (bitString 0b10100101 8)) 1 = some [0xA5#8] := by decide
theorem test_pack_P3v : registersAfter .pack { State.reset with blen := 7#32 } = some (0x16, 0, 7, 0) := by decide
theorem test_capacity_K5 :
    registersAfter .capacity { State.reset with width := 0xFFFF#16, height := 0xFFFF#16 } =
      some (0x02, 12884508675, 0, 0) := by decide
theorem test_capacity_K6 :
    registersAfter .capacity { State.reset with width := 10#16, height := 10#16, bpc := 2#32 } = some (0x26, 0, 0, 0) := by
  decide
theorem test_frame_F3 : bitsAfter .frame (withMessage [0x48#8, 0x69#8]) 48 = some (bitString 0x000000024869 48) := by decide
theorem test_frame_F6 : registersAfter .frame { State.reset with ilen := 4097#32 } = some (0xC6, 0, 0, 0) := by decide
theorem test_parse_D2 : outputAfter .parse (withBits (bitString 0x000000024869 48 ++ [true, false, true])) 2 =
    some [0x48#8, 0x69#8] := by decide
theorem test_parse_D3 : registersAfter .parse { withBits (bitString 0x000000024869 48) with blen := 47#32 } =
    some (0x96, 0, 47, 0) := by decide
theorem test_arbitrate_T13 :
    registersAfter .arbitrate (withBudget 20 0 0 [0x41#8, 0x42#8, 0x43#8, 0x44#8, 0x45#8, 0x46#8, 0x47#8]) =
      some (0x36, 0, 0, 0) := by decide
theorem test_arbitrate_T18 : registersAfter .arbitrate (withBudget 16 0 0 [0x48#8, 0x69#8]) = some (0x02, 2, 48, 0) := by decide
theorem test_arbitrateF_T12 :
    bitsAfter .arbitrateF (withBudget 20 1 1 [0x41#8, 0x42#8, 0x43#8, 0x44#8, 0x45#8, 0x46#8, 0x47#8]) 56 =
      some (bitString 0x00000003414243 56) := by decide
theorem test_arbitrateF_T17 : registersAfter .arbitrateF (withBudget 20 1 1 [0x41#8, 0x42#8, 0x43#8, 0x44#8]) =
    some (0x0A, 3, 56, 0) := by decide
theorem test_embed_M1 :
    outputAfter .embed (withImage 2 [0x00#8, 0xFF#8, 0x10#8, 0x11#8, 0x12#8, 0x13#8] [true, false, true]) 6 =
      some [0x01#8, 0xFE#8, 0x11#8, 0x11#8, 0x12#8, 0x13#8] := by decide
theorem test_embed_M13 :
    registersAfter .embed { withImage 16 [] [] with clen := 47#32, blen := 49#32 } = some (0xA6, 0, 49, 0) := by decide
theorem test_exthdr_X1 : registersAfter .exthdr (withImage 16 stegoM2 []) = some (0x02, 2, 0, 0) := by decide
theorem test_exthdr_X7 : registersAfter .exthdr { withImage 10 [] [] with clen := 30#32 } = some (0x86, 0, 0, 0) := by decide
theorem test_extmsg_X2 : outputAfter .extmsg (withImage 16 stegoM2 []) 2 = some [0x48#8, 0x69#8] := by decide
theorem test_extmsg_X4 : registersAfter .extmsg (withImage 16 (List.replicate 48 0xFF#8) []) = some (0x76, 0, 0, 0) := by decide

/-! Host accesses (spec/95 section 9) and steps. -/

/-- STATUS and the last reply after a transaction. -/
def afterAccess (s : State) (x : Transaction) : Nat × Nat := ((s.transact x).statusWord.toNat, (s.transact x).lastReply.toNat)

/-- A state with a command in flight that completes after `k` more steps. -/
def inFlight (w : Word) (k : Nat) : State := { State.reset.latchCommand w with wait := k }

theorem test_host_H1 : afterAccess State.reset (.read 0x00#32 .four) = (0, 0x4C534231) := by decide
theorem test_host_H4 : afterAccess State.reset (.read 0x48#32 .four) = (0x100, 0) := by decide
theorem test_host_H7 : afterAccess State.reset (.write 0x40000000#32 .one 0x55#32) = (0x100, 0) := by decide
theorem test_host_H9 : afterAccess State.reset (.read 0x10001000#32 .one) = (0x100, 0) := by decide
theorem test_host_H10 :
    afterAccess (State.reset.transact (.write 0x30000000#32 .one 0xFF#32)) (.read 0x30000000#32 .one) = (0, 1) := by decide
theorem test_host_H11 :
    afterAccess (State.reset.transact (.write 0x0C#32 .four 0x12345678#32)) (.read 0x0C#32 .four) = (0, 0x5678) := by decide
theorem test_host_H13 : afterAccess { State.reset with herr := true } (.write 0x08#32 .four 0xFF#32) = (0x100, 0) := by decide
theorem test_host_H14 : afterAccess { State.reset with herr := true } (.write 0x08#32 .four 0x100#32) = (0, 0) := by decide
theorem test_host_H15 : ((inFlight 1#32 1).transact (.write 0x20#32 .four 9#32)).ilen = 0#32 := by decide
theorem test_host_H18 : ((inFlight 4#32 1).transact (.write 0x04#32 .four 1#32)).latch = 4#32 := by decide
theorem test_host_H22 :
    (State.transact { State.reset with done := true, err := true, errcode := 6#4, herr := true }
      (.write 0x04#32 .four 1#32)).statusWord = 0x101#32 := by decide
theorem test_step_H20 : (answered (step (State.reset.withFetchWord 32 0x106))).map State.statusWord = some 0xB6#32 := by decide
theorem test_step_E8 : (answered (step (State.reset.withFetchWord 32 0x101))).map State.statusWord = some 0xD6#32 := by decide
theorem test_step_host_operation :
    (answered (step { State.reset with host := [.txn (.write 0x28#32 .four 7#32)] })).map (fun t => (t.blen, t.host)) =
      some (7#32, []) := by decide

/-! Buffers: a write keeps the canonical form, replaces a cell in place, and reset's buffers are in it. -/

theorem test_memory_write_inserts : Memory.write [(1, 0xAA#8), (5, 0xBB#8)] 3 [0xCC#8] =
    [(1, 0xAA#8), (3, 0xCC#8), (5, 0xBB#8)] := by decide
theorem test_memory_write_replaces : Memory.write [(1, 0xAA#8), (5, 0xBB#8)] 5 [0xCC#8] = [(1, 0xAA#8), (5, 0xCC#8)] := by
  decide
theorem test_memory_reset_wf : Memory.wf State.reset.ibuf ∧ Memory.wf State.reset.cbuf ∧ Memory.wf State.reset.bbuf ∧
    Memory.wf State.reset.obuf := by decide

/-! The assembler: the lines of programs P2 and P3 (spec/95 section 10) and lines it refuses. -/

theorem test_parse_run : parseLine "    run     ARBITRATE.F            ; a comment".toList = some [.run .arbitrateF] := by decide
theorem test_parse_wr : parseLine "wr CMD, 0x00000101".toList = some [.wr .cmd 0x101#32] := by decide
theorem test_parse_fillrep : parseLine "fillrep CBUF, 0, 48, 0x80".toList = some [.fillrep .cbuf 0 48 0x80#8] := by decide
theorem test_parse_blank : parseLine "   ; only a comment".toList = some [] := by decide
theorem test_parse_refuses_wide_byte : parseLine "wrb IBUF[0], 256".toList = none := by decide
theorem test_expand_fillbits : assemble [.fillbits .bbuf 0 [true, false]] =
    [.txn (.write 0x30000000#32 .one 1#32), .txn (.write 0x30000001#32 .one 0#32)] := by decide
theorem test_expand_copyout : assemble [.copyout 1] = [.txn (.read 0x40000000#32 .one), .writeBack 0x20000000#32] := by decide

/-! Witnesses: for every statement of Obligations.lean that has hypotheses, a concrete state that meets them all, clause by clause,
at the ends of the ranges. -/

/-- The reference sizes, with every length at its buffer's size. -/
def atLimits : State := { State.reset with ilen := 4096#32, blen := 32800#32, clen := 262144#32 }

/-- "Hi" in a 16 × 1 cover of 0x80, the start of program P2. -/
def startP2 : State :=
  { withImage 16 (List.replicate 48 0x80#8) [] with ilen := 2#32, ibuf := Memory.cells 0 [0x48#8, 0x69#8] }

theorem witness_DecodeAndEncodeAgree :
    Instr.arbitrateF.wellFormed = true ∧ decode 0x106#32 = .command .arbitrateF ∧ Instr.arbitrateF.fields.wellFormed = true := by
  decide

theorem witness_IllegalWordsCompleteWithCode13 :
    ∀ w ∈ [0x0#32, 0xA#32, 0xF#32, 0x11#32, 0x206#32, 0x80000006#32, 0x107#32],
      (inFlight w 0).busy = true ∧ (inFlight w 0).wait = 0 ∧ IllegalWord (inFlight w 0).latch := by
  intro w hw
  refine ⟨rfl, rfl, ?_⟩
  simp only [IllegalWord]
  fin_cases hw <;> decide

theorem witness_StepRunsLatchedCommand :
    ∀ i ∈ [Instr.unpack, .pack, .capacity, .frame, .parse, .arbitrate, .arbitrateF, .embed, .exthdr, .extmsg],
      (State.reset.withFetchWord 32 (encode i).toNat).busy = true ∧ (State.reset.withFetchWord 32 (encode i).toNat).wait = 0 ∧
        decode (State.reset.withFetchWord 32 (encode i).toNat).latch = .command i ∧ i.wellFormed = true := by decide

theorem witness_StepPerformsHostOperation :
    (∃ (s : State) (op : HostOp) (rest : List HostOp), s.host = op :: rest ∧ s.busy = false) ∧
      (∃ (s : State) (op : HostOp) (rest : List HostOp) (k : Nat), s.host = op :: rest ∧ s.busy = true ∧ s.wait = k + 1) ∧
      ∃ (s : State) (k : Nat), s.busy = true ∧ s.wait = k + 1 ∧ s.host = [] :=
  ⟨⟨{ State.reset with host := [.wait] }, .wait, [], rfl, rfl⟩,
    ⟨{ inFlight 1#32 1 with host := [.txn .reset, .wait] }, .txn .reset, [.wait], 0, rfl, rfl, rfl⟩, inFlight 1#32 1, 0, rfl, rfl, rfl⟩

theorem witness_IdleBlockKeepsState : State.reset.busy = false ∧ State.reset.host = [] := by decide

theorem witness_StepKeepsInvariant :
    ∃ s t : State, s.Inv ∧ s.busy = true ∧ s.wait = 0 ∧ step s = .next t :=
  ⟨{ State.reset.withFetchWord 32 1 with ibuf := Memory.cells 4095 [0xDE#8], ilen := 4096#32 }, _,
    ⟨by decide, ⟨by decide, by decide, by decide, by decide⟩,
      ⟨by decide, by decide, by decide, by decide, by decide, by decide, by decide, by decide⟩, by decide, by decide, by decide⟩,
    rfl, rfl, rfl⟩

/-- A command that takes three more steps, with the host's reset just after them. -/
def resetAfterwards (w : Word) : State := { inFlight w 3 with host := [.wait, .txn (.read 0#32 .four), .wait, .txn .reset] }

theorem witness_OperandsFrozenWhileBusy :
    ∀ k ∈ [0, 3], (resetAfterwards 1#32).busy = true ∧ k ≤ (resetAfterwards 1#32).wait ∧
      HostOp.txn .reset ∉ (resetAfterwards 1#32).host.take k := by decide

theorem witness_LatencyDoesNotChangeOutcome :
    (resetAfterwards 1#32).busy = true ∧ decode (resetAfterwards 1#32).latch = .command .unpack ∧
      HostOp.txn .reset ∉ (resetAfterwards 1#32).host.take (resetAfterwards 1#32).wait := by decide

theorem witness_IssuedCommandCompletes :
    ∀ w ∈ [9#32, 0#32], (resetAfterwards w).busy = true ∧
      HostOp.txn .reset ∉ (resetAfterwards w).host.take (resetAfterwards w).wait := by
  intro w hw
  fin_cases hw <;> decide

theorem witness_WaitLoopEnds : (resetAfterwards 1#32).busy = true ∧
    (resetAfterwards 1#32).host = .wait :: [.txn (.read 0#32 .four), .wait, .txn .reset] := by decide

theorem witness_CommandWriteIssues :
    State.reset.busy = false ∧ (inFlight 1#32 0).busy = true ∧ IllegalWord (inFlight 0x101#32 0).latch :=
  ⟨rfl, rfl, by simp only [IllegalWord]; decide⟩
theorem witness_StatusWriteClearsHerr : (inFlight 1#32 0).busy = true ∧ Register.obufSize ≠ .status := by decide
theorem witness_DimensionRegisters : State.reset.busy = false := by decide
theorem witness_OperandRegisters : State.reset.busy = false := by decide
theorem witness_ResultRegisters : State.reset.busy = false := by decide
theorem witness_SizeRegisters : State.reset.params.Valid := by decide

theorem witness_ReservedOffsets : ∀ a ∈ [0x48#32, 0xFF#32], 0x48 ≤ a.toNat ∧ a.toNat ≤ 0xFF := by
  intro a ha
  fin_cases ha <;> decide

theorem witness_BufferCellAccess :
    State.reset.params.Valid ∧ State.reset.busy = false ∧ 4095 < State.reset.params.ibufSize ∧
      262143 < State.reset.params.cbufSize ∧ 32799 < State.reset.params.bbufSize ∧ 262143 < State.reset.params.obufSize ∧
      262143 < Buffer.obuf.size State.reset.params ∧ Size.two ≠ .one := by decide

/-- Unmapped: the first and last address of the register region's rest, the first address past each buffer, above all windows. -/
theorem witness_AccessErrors_unmapped :
    ∀ a ∈ [0x100#32, 0x0FFFFFFF#32, 0x10001000#32, 0x20040000#32, 0x30008020#32, 0x40040000#32, 0xFFFFFFFF#32],
      0x100 ≤ a.toNat ∧ ∀ b, ¬ MappedCell State.reset.params b a.toNat := by
  intro a ha
  simp only [MappedCell]
  fin_cases ha <;> refine ⟨by decide, fun b => ?_⟩ <;> cases b <;> decide

theorem witness_AccessErrors_registers :
    (0x00#32).toNat < 0x100 ∧ Size.one ≠ .four ∧ (0xFF#32).toNat < 0x100 ∧ (0xFF#32).toNat % 4 ≠ 0 := by decide

/-- The three kinds of bad access, each at an end of its range. -/
theorem witness_BadAccess :
    BadAccess State.reset.params 0xFE#32 .four ∧ BadAccess State.reset.params 0x4003FFFF#32 .two ∧
      BadAccess State.reset.params 0x48#32 .four ∧ BadAccess State.reset.params 0x50000000#32 .one :=
  ⟨.inl (by decide), .inr (.inl ⟨⟨.obuf, by decide, by decide⟩, by decide⟩),
    .inr (.inr ⟨by decide, fun b => by simp only [MappedCell]; cases b <;> decide⟩),
    .inr (.inr ⟨by decide, fun b => by simp only [MappedCell]; cases b <;> decide⟩)⟩

theorem witness_AccessWhileBusy :
    (inFlight 1#32 1).params.Valid ∧ (inFlight 1#32 1).busy = true ∧ 32799 < Buffer.bbuf.size (inFlight 1#32 1).params ∧
      Register.cmd ≠ .status ∧ BadAccess (inFlight 1#32 1).params 0xFE#32 .four :=
  ⟨by decide, rfl, by decide, by decide, witness_BadAccess.1⟩

/-- The five kinds of R245. -/
theorem witness_HerrSetByAccessErrorsOnly :
    State.reset.params.Valid ∧ State.reset.HostAccessError (.read 0xFE#32 .four) ∧
      State.reset.HostAccessError (.write 0x4003FFFF#32 .two 0#32) ∧ State.reset.HostAccessError (.read 0x50000000#32 .one) ∧
      State.reset.HostAccessError (.write 0x44#32 .four 0#32) ∧ State.reset.HostAccessError (.write 0x40000000#32 .one 0#32) ∧
      (inFlight 1#32 1).HostAccessError (.write 0x04#32 .four 0#32) ∧
      ∃ t, completeLatched (inFlight 1#32 0) = .next t :=
  ⟨by decide, witness_BadAccess.1, .inl witness_BadAccess.2.1, witness_BadAccess.2.2.2, .inr (.inl (.inl (by decide))),
    .inr (.inl (.inr ⟨by decide, by decide⟩)), .inr (.inr ⟨rfl, by decide⟩), _, rfl⟩

theorem witness_HerrSticky :
    (∃ s t : State, s.herr = true ∧ step s = .next t ∧ t.herr = false ∧ s.host = [.txn .reset]) ∧
      (∃ s t : State, s.herr = true ∧ step s = .next t ∧ t.herr = false ∧
        s.host = [.txn (.write 0x08#32 .four 0x100#32)]) ∧
      (0x100#32).getLsbD 8 = true ∧ (∃ s : State, s.busy = false ∧ s.herr = true) ∧
      ∃ t, exec .unpack State.reset = .next t :=
  ⟨⟨{ State.reset with herr := true, host := [.txn .reset] }, _, rfl, rfl, rfl, rfl⟩,
    ⟨{ State.reset with herr := true, host := [.txn (.write 0x08#32 .four 0x100#32)] }, _, rfl, rfl, rfl, rfl⟩,
    by decide, ⟨{ State.reset with herr := true }, rfl, rfl⟩, _, rfl⟩

theorem witness_ReadsHaveNoSideEffect :
    State.reset.params.Valid ∧ ¬ BadAccess State.reset.params 0x44#32 .four ∧ State.reset.busy = false ∧
      (inFlight 1#32 1).busy = true ∧ ¬ BadAccess (inFlight 1#32 1).params 0x44#32 .four ∧
      BadAccess State.reset.params 0x48#32 .four := by
  have good : ¬ BadAccess State.reset.params 0x44#32 .four := by
    rintro (h | ⟨⟨b, h⟩, _⟩ | ⟨h, _⟩)
    · exact absurd h (by decide)
    · simp only [MappedCell] at h
      cases b <;> exact absurd h (by decide)
    · exact absurd h (by decide)
  exact ⟨by decide, good, rfl, rfl, good, witness_BadAccess.2.2.1⟩

theorem witness_ReportStaysUntilIssueOrReset :
    (∃ s t : State, s.busy = false ∧ s.err = true ∧ step s = .next t ∧ s.host = [.wait]) ∧
      (∃ s t : State, s.busy = false ∧ step s = .next t ∧ s.host = [.txn (.write 0x04#32 .four 1#32)]) ∧
      ∃ s t : State, s.busy = false ∧ step s = .next t ∧ s.host = [.txn .reset] :=
  ⟨⟨{ State.reset with err := true, errcode := 1#4, host := [.wait] }, _, rfl, rfl, rfl, rfl⟩,
    ⟨{ State.reset with host := [.txn (.write 0x04#32 .four 1#32)] }, _, rfl, rfl, rfl⟩,
    { State.reset with host := [.txn .reset] }, _, rfl, rfl, rfl⟩

/-- Each of the three kinds of input changes in a step, at the ends of the ranges. -/
theorem witness_InputsChangeByHostWritesOnly :
    (∃ s t : State, step s = .next t ∧ s.host = [.txn (.write 0x0C#32 .four 5#32)] ∧ ¬ s.SameOperandRegisters t) ∧
      (∃ s t : State, step s = .next t ∧ s.host = [.txn (.write 0x24#32 .four 5#32)] ∧ ¬ s.SameOperandRegisters t) ∧
      (∃ s t : State, step s = .next t ∧ s.host = [.txn (.write 0x10000FFF#32 .one 5#32)] ∧ t.ibufAt 4095 ≠ s.ibufAt 4095) ∧
      ∃ s t : State, step s = .next t ∧ s.host = [.writeBack 0x20000000#32] ∧ t.cbufAt 0 ≠ s.cbufAt 0 :=
  ⟨⟨{ State.reset with host := [.txn (.write 0x0C#32 .four 5#32)] }, _, rfl, rfl, fun h => absurd h.width (by decide)⟩,
    ⟨{ State.reset with host := [.txn (.write 0x24#32 .four 5#32)] }, _, rfl, rfl, fun h => absurd h.clen (by decide)⟩,
    ⟨{ State.reset with host := [.txn (.write 0x10000FFF#32 .one 5#32)], ibuf := [(4095, 1#8)] }, _, rfl, rfl, by decide⟩,
    { State.reset with host := [.writeBack 0x20000000#32], replies := [7#32], cbuf := [(0, 1#8)] }, _, rfl, rfl, by decide⟩

/-! The commands. Each success at its limit, each failure one past it. -/

theorem witness_UnpackWritesBits :
    atLimits.params.Valid ∧ atLimits.ilen.toNat ≤ atLimits.params.ibufSize ∧
      Config.reference.ibufSize < (State.ilen { atLimits with ilen := 4097#32 }).toNat := by decide

theorem witness_PackWritesBytes :
    atLimits.blen.toNat ≤ atLimits.params.bbufSize ∧ atLimits.blen.toNat % 8 = 0 ∧ Config.reference.bbufSize < (32801#32).toNat ∧
      (32799#32).toNat ≤ Config.reference.bbufSize ∧ (32799#32).toNat % 8 ≠ 0 := by decide

theorem witness_CapacityIsExact : State.reset.bpc = 1#32 ∧ State.bpc { State.reset with bpc := 0#32 } ≠ 1#32 := by decide

theorem witness_FrameWritesFrame :
    atLimits.params.Valid ∧ atLimits.ilen.toNat ≤ atLimits.params.ibufSize ∧
      Config.reference.ibufSize < (State.ilen { atLimits with ilen := 4097#32 }).toNat := by decide

/-- BBUF holding the header of "Hi" and its payload, and BLEN as given. -/
def framedHi (blen : Word) : State := { withBits (bitString 0x000000024869 48) with blen := blen }

theorem witness_ParseWritesPayload :
    (framedHi 48#32).blen.toNat ≤ (framedHi 48#32).params.bbufSize ∧
      32 + 8 * headerValue (framedHi 48#32).bbufAt ≤ (framedHi 48#32).blen.toNat ∧
      (framedHi 47#32).blen.toNat ≤ (framedHi 47#32).params.bbufSize ∧ 32 ≤ (framedHi 47#32).blen.toNat ∧
      (framedHi 47#32).blen.toNat < 32 + 8 * headerValue (framedHi 47#32).bbufAt ∧
      (framedHi 31#32).blen.toNat ≤ (framedHi 31#32).params.bbufSize ∧ (framedHi 31#32).blen.toNat < 32 ∧
      (framedHi 32801#32).params.bbufSize < (framedHi 32801#32).blen.toNat := by
  have h48 : headerValue (framedHi 48#32).bbufAt = 2 := by decide +kernel
  have h47 : headerValue (framedHi 47#32).bbufAt = 2 := by decide +kernel
  rw [h48, h47]
  decide

/-- W × 1 with a message of `n` bytes and a fraction. -/
def budget (w : BitVec 16) (n num den : Word) : State :=
  { State.reset with width := w, height := 1#16, ilen := n, fracNum := num, fracDen := den }

theorem witness_ArbitrateFramesWholeMessage :
    (budget 16#16 2#32 0#32 0#32).params.Valid ∧
      (budget 16#16 2#32 0#32 0#32).ilen.toNat ≤ (budget 16#16 2#32 0#32 0#32).params.ibufSize ∧
      32 + 8 * (budget 16#16 2#32 0#32 0#32).ilen.toNat ≤
        (budget 16#16 2#32 0#32 0#32).width.toNat * (budget 16#16 2#32 0#32 0#32).height.toNat * 3 ∧
      (budget 15#16 2#32 0#32 0#32).width.toNat * (budget 15#16 2#32 0#32 0#32).height.toNat * 3 <
        32 + 8 * (budget 15#16 2#32 0#32 0#32).ilen.toNat ∧
      (budget 16#16 4097#32 0#32 0#32).params.ibufSize < (budget 16#16 4097#32 0#32 0#32).ilen.toNat := by decide

/-- A whole message and a cut one at the least budget, 40; a budget of 32; the three illegal fractions; ILEN past IBUF_SIZE. -/
theorem witness_ArbitrateFractionCutsPrefix :
    (∀ s ∈ [budget 14#16 1#32 1#32 1#32, budget 14#16 4096#32 1#32 1#32], s.params.Valid ∧
      s.ilen.toNat ≤ s.params.ibufSize ∧ 0 < s.fracNum.toNat ∧ s.fracNum.toNat ≤ s.fracDen.toNat ∧
      40 ≤ 8 * (s.width.toNat * s.height.toNat * 3 * s.fracNum.toNat / s.fracDen.toNat / 8)) ∧
    (∀ s ∈ [budget 13#16 0#32 1#32 1#32], s.ilen.toNat ≤ s.params.ibufSize ∧ 0 < s.fracNum.toNat ∧
      s.fracNum.toNat ≤ s.fracDen.toNat ∧ 8 * (s.width.toNat * s.height.toNat * 3 * s.fracNum.toNat / s.fracDen.toNat / 8) < 40) ∧
    (∀ s ∈ [budget 14#16 0#32 0#32 1#32, budget 14#16 0#32 1#32 0#32, budget 14#16 0#32 3#32 2#32],
      s.ilen.toNat ≤ s.params.ibufSize ∧ ¬ (0 < s.fracNum.toNat ∧ s.fracNum.toNat ≤ s.fracDen.toNat)) ∧
    (budget 14#16 4097#32 1#32 1#32).params.ibufSize < (budget 14#16 4097#32 1#32 1#32).ilen.toNat := by decide

/-- W × 1 with lengths and a depth. -/
def image (w : BitVec 16) (clen blen bpc : Word) : State :=
  { State.reset with width := w, height := 1#16, clen := clen, blen := blen, bpc := bpc }

theorem witness_EmbedReplacesLowBits :
    (∀ s ∈ [image 16#16 48#32 48#32 1#32, image 16#16 48#32 0#32 1#32, image 0#16 0#32 0#32 1#32],
      s.clen.toNat ≤ s.params.cbufSize ∧ s.blen.toNat ≤ s.params.bbufSize ∧ s.bpc = 1#32 ∧
      s.clen.toNat = s.width.toNat * s.height.toNat * 3 ∧ s.blen.toNat ≤ s.width.toNat * s.height.toNat * 3) ∧
    (∀ s ∈ [image 16#16 262145#32 0#32 1#32, image 16#16 48#32 32801#32 1#32],
      s.params.cbufSize < s.clen.toNat ∨ s.params.bbufSize < s.blen.toNat) ∧
    (∀ s ∈ [image 16#16 47#32 49#32 2#32], s.clen.toNat ≤ s.params.cbufSize ∧ s.blen.toNat ≤ s.params.bbufSize ∧ s.bpc ≠ 1#32) ∧
    (∀ s ∈ [image 16#16 47#32 49#32 1#32], s.clen.toNat ≤ s.params.cbufSize ∧ s.blen.toNat ≤ s.params.bbufSize ∧
      s.bpc = 1#32 ∧ s.clen.toNat ≠ s.width.toNat * s.height.toNat * 3) ∧
    ∀ s ∈ [image 16#16 48#32 49#32 1#32], s.clen.toNat ≤ s.params.cbufSize ∧ s.blen.toNat ≤ s.params.bbufSize ∧
      s.bpc = 1#32 ∧ s.clen.toNat = s.width.toNat * s.height.toNat * 3 ∧ s.width.toNat * s.height.toNat * 3 < s.blen.toNat := by
  decide

theorem witness_ExthdrReadsLength :
    (∀ s ∈ [image 11#16 33#32 0#32 1#32], s.clen.toNat ≤ s.params.cbufSize ∧ s.bpc = 1#32 ∧
      s.clen.toNat = s.width.toNat * s.height.toNat * 3 ∧ 32 ≤ s.clen.toNat) ∧
    (∀ s ∈ [image 11#16 262145#32 0#32 1#32], s.params.cbufSize < s.clen.toNat) ∧
    (∀ s ∈ [image 11#16 33#32 0#32 0#32], s.clen.toNat ≤ s.params.cbufSize ∧ s.bpc ≠ 1#32) ∧
    (∀ s ∈ [image 11#16 34#32 0#32 1#32], s.clen.toNat ≤ s.params.cbufSize ∧ s.bpc = 1#32 ∧
      s.clen.toNat ≠ s.width.toNat * s.height.toNat * 3) ∧
    ∀ s ∈ [image 10#16 30#32 0#32 1#32], s.clen.toNat ≤ s.params.cbufSize ∧ s.bpc = 1#32 ∧
      s.clen.toNat = s.width.toNat * s.height.toNat * 3 ∧ s.clen.toNat < 32 := by decide

/-- The stego image of M2 fills its 16 × 1 image to the last bit; FF×48 asks for far more; the other failures are those of
EXTHDR's witness. -/
theorem witness_ExtmsgReadsMessage :
    (∀ s ∈ [withImage 16 stegoM2 []], s.clen.toNat ≤ s.params.cbufSize ∧ s.bpc = 1#32 ∧
      s.clen.toNat = s.width.toNat * s.height.toNat * 3 ∧
      32 + 8 * headerValue s.lowBit ≤ s.width.toNat * s.height.toNat * 3) ∧
    ∀ s ∈ [withImage 16 (List.replicate 48 0xFF#8) []], s.clen.toNat ≤ s.params.cbufSize ∧ s.bpc = 1#32 ∧
      s.clen.toNat = s.width.toNat * s.height.toNat * 3 ∧ 32 ≤ s.clen.toNat ∧
      s.width.toNat * s.height.toNat * 3 < 32 + 8 * headerValue s.lowBit := by decide +kernel

/-! Rules over all commands. -/

theorem witness_exec_answers : ∀ i : Instr, ∃ t, exec i State.reset = .next t := fun i => by cases i <;> exact ⟨_, rfl⟩

theorem witness_ErrorPriority :
    (∃ t, exec .pack State.reset = .next t) ∧ decode (inFlight 0x107#32 0).latch = .illegal .fractionBitMisplaced ∧
      ∃ t, completeLatched (inFlight 0x107#32 0) = .next t := ⟨⟨_, rfl⟩, by decide, _, rfl⟩

theorem witness_FailedCommandWritesOnlyStatus :
    ∃ t, completeLatched { inFlight 2#32 0 with blen := 7#32 } = .next t ∧ t.err = true := ⟨_, rfl, by decide⟩

theorem witness_CommandsWriteOnlyTheirDestination :
    (∃ t, exec .capacity State.reset = .next t) ∧ Instr.capacity ∉ [Instr.unpack, .frame, .arbitrate, .arbitrateF] ∧
      Instr.capacity ∉ [Instr.pack, .parse, .embed, .extmsg] := ⟨⟨_, rfl⟩, by decide, by decide⟩

theorem witness_CompletionStatus :
    ∃ t, completeLatched { budget 14#16 4#32 1#32 1#32 with latch := 0x106#32, ibuf := Memory.cells 0 [1#8, 2#8, 3#8, 4#8] } =
      .next t ∧ t.trunc = true := ⟨_, rfl, by decide⟩

theorem witness_FlagsSelectNothing : ∃ t, exec .parse State.reset = .next t := ⟨_, rfl⟩

theorem witness_UnreachableErrors :
    (∃ t, exec .frame State.reset = .next t) ∧ ∃ t, exec .extmsg State.reset = .next t := ⟨⟨_, rfl⟩, _, rfl⟩

theorem witness_ArbitrateRespectsBudget :
    (∃ t u, exec .arbitrate startP2 = .next t ∧ t.err = false ∧ t.bpc = 1#32 ∧ exec .embed t = .next u) ∧ startP2.params.Valid ∧
      ∃ t, exec .arbitrateF { startP2 with fracNum := 1#32, fracDen := 1#32 } = .next t ∧ t.err = false :=
  ⟨⟨_, _, rfl, by decide, by decide, rfl⟩, by decide, _, rfl, by decide⟩

theorem witness_ArbitrateDeterminism :
    ∃ s s' t t' : State, s ≠ s' ∧ s'.params = s.params ∧ s'.width = s.width ∧ s'.height = s.height ∧ s'.ilen = s.ilen ∧
      (∀ k < s.ilen.toNat, s'.ibufAt k = s.ibufAt k) ∧ s'.fracNum = s.fracNum ∧ s'.fracDen = s.fracDen ∧
      exec .arbitrateF s = .next t ∧ exec .arbitrateF s' = .next t' :=
  ⟨startP2, { startP2 with bpc := 5#32, clen := 0#32, cbuf := [] }, _, _, by decide, rfl, rfl, rfl, rfl, fun _ _ => rfl, rfl, rfl,
    rfl, rfl⟩

theorem witness_UnpackPackRoundTrip : ([] : List Bit).length % 8 = 0 ∧ (bitString 0xA5 8).length % 8 = 0 ∧
    atLimits.params.Valid ∧ atLimits.ilen.toNat ≤ atLimits.params.ibufSize := by decide

theorem witness_FrameParseRoundTrip : atLimits.params.Valid ∧ atLimits.ilen.toNat ≤ atLimits.params.ibufSize := by decide

/-- "Hi" fills the 16 × 1 cover to its last bit. -/
theorem witness_EmbedExtractRoundTrip :
    startP2.params.Valid ∧ startP2.ilen.toNat ≤ startP2.params.ibufSize ∧ startP2.bpc = 1#32 ∧
      startP2.clen.toNat = startP2.width.toNat * startP2.height.toNat * 3 ∧ startP2.clen.toNat ≤ startP2.params.cbufSize ∧
      32 + 8 * startP2.ilen.toNat ≤ startP2.width.toNat * startP2.height.toNat * 3 := by decide

/-- The copy of the stego image into CBUF that the round trip asks for exists. -/
theorem witness_EmbedExtractRoundTrip_copy :
    ∃ a b c : State, exec .frame startP2 = .next a ∧ exec .embed a = .next b ∧ b.SameOperandRegisters c ∧
      c.params = b.params ∧ ∀ i < startP2.clen.toNat, c.cbufAt i = b.obufAt i := by
  refine ⟨(startP2.complete (frameResult startP2)),
    State.complete (startP2.complete (frameResult startP2)) (embedResult (startP2.complete (frameResult startP2))),
    { State.complete (startP2.complete (frameResult startP2)) (embedResult (startP2.complete (frameResult startP2))) with
      cbuf := Memory.cells 0 stegoM2 },
    rfl, rfl, ⟨rfl, rfl, rfl, rfl, rfl, rfl, rfl⟩, rfl, ?_⟩
  decide +kernel

theorem witness_CopyoutCopiesOutput :
    State.reset.params.Valid ∧ State.reset.busy = false ∧ 262144 ≤ State.reset.params.cbufSize := by decide

/-- The one command of the run, a CAPACITY in flight, succeeds. -/
theorem witness_CleanRunCommandsSucceed :
    ∃ t, (inFlight 3#32 0).CleanRun 1 t ∧ (inFlight 3#32 0).busy = true ∧ (inFlight 3#32 0).wait = 0 := by
  refine ⟨_, ⟨rfl, rfl, ?_⟩, rfl, rfl⟩
  intro j u v hj hu _ _ hv
  obtain rfl : j = 0 := by omega
  cases hu
  cases hv
  decide

/-- R286 asks for ERR = 0 after EACH command: a PACK that fails spoils every run, also one whose host then issues a CAPACITY, which
clears ERR. -/
theorem test_failed_command_spoils_run (k : Nat) (t : State) :
    ¬ State.CleanRun k { inFlight 2#32 0 with blen := 7#32, host := [.txn (.write 0x04#32 .four 3#32)] } t := by
  intro h
  cases k with
  | zero => exact absurd (by cases h.runs; exact h.ended) (by decide)
  | succ k => exact absurd (h.clean 0 _ _ (Nat.succ_pos k) rfl rfl rfl rfl).2 (by decide)

/-- R286: with the last transaction done, a command in flight keeps the run from its end. -/
theorem test_run_not_over_while_busy : (inFlight 3#32 2).runEnded = false ∧ State.reset.runEnded = true := by decide

theorem witness_InstancesNeverInteract : ([State.reset, inFlight 1#32 0] : Instances)[1]? = some (inFlight 1#32 0) := by decide

end Sys2Proof.Machine
end

section
/-! SUPPORT. Transactions by what they reach: one rule for an access that reaches nothing, and for a read and a write of a register
in each condition of the access (R80, R82, R85). -/

namespace Sys2Proof.Machine

/-! The register region holds no register from 0x48 on (R48, R81). -/

/-- Window 0 from 0x48 on: the reserved offsets, and above them the unmapped rest of the window. -/
theorem target_window0_past_registers (p : Config.Params) {a : Word} (size : Size) (h : 0x48 ≤ a.toNat)
    (hw : a.toNat < 2 ^ 28) : target p a size = none := by
  rw [target, if_pos (Nat.div_eq_of_lt hw)]
  cases size with
  | one => rfl
  | two => rfl
  | four => rw [regTarget, (atOffset_eq_none_iff _).mpr (.inl h), Option.map_none]

/-! An access that reaches nothing (R82 to R84). -/

theorem State.transact_read_of_target_none {s : State} {a : Word} {size : Size} (h : target s.params a size = none) :
    s.transact (.read a size) = s.raiseHerr.reply 0#32 := by
  rw [State.transact, State.hostRead, h]

theorem State.transact_write_of_target_none {s : State} {a : Word} {size : Size} (v : Word)
    (h : target s.params a size = none) : s.transact (.write a size v) = s.raiseHerr := by
  rw [State.transact, State.hostWrite, h]

/-! A size-4 access at the offset of a register (R82). -/

theorem State.transact_read_register (s : State) (r : Register) :
    s.transact (.read (BitVec.ofNat 32 r.offset) .four) = s.readRegisterAccess r := by
  rw [State.transact, State.hostRead, target_register]

theorem State.transact_write_register (s : State) (r : Register) (v : Word) :
    s.transact (.write (BitVec.ofNat 32 r.offset) .four v) = s.writeRegisterAccess r v := by
  rw [State.transact, State.hostWrite, target_register]

/-- ID, CMD, STATUS and the size registers read as they are, busy or not (R85). -/
theorem State.transact_read_exact (s : State) {r : Register} (h : r.exactWhileBusy = true) :
    s.transact (.read (BitVec.ofNat 32 r.offset) .four) = s.reply (s.readRegister r) := by
  rw [State.transact_read_register, State.readRegisterAccess, if_neg (by simp [h])]

/-- While idle every register reads as it is (R82). -/
theorem State.transact_read_idle {s : State} (hb : s.busy = false) (r : Register) :
    s.transact (.read (BitVec.ofNat 32 r.offset) .four) = s.reply (s.readRegister r) := by
  rw [State.transact_read_register, State.readRegisterAccess, if_neg (by simp [hb])]

/-- A write of STATUS is accepted busy or not (R36). -/
theorem State.transact_write_status (s : State) (v : Word) :
    s.transact (.write (BitVec.ofNat 32 Register.status.offset) .four v) = s.writeStatus v :=
  s.transact_write_register .status v

/-- While idle a write of a host-writable register writes it (R32). -/
theorem State.transact_write_idle {s : State} (hb : s.busy = false) {r : Register} (hr : r ≠ .status)
    (hw : r.writable = true) (v : Word) :
    s.transact (.write (BitVec.ofNat 32 r.offset) .four v) = s.writeRegister r v := by
  rw [State.transact_write_register, State.writeRegisterAccess, if_neg hr, if_pos (by simp [hb, hw])]

/-- A write of a read-only register is ignored and sets HERR, busy or not (R32, R245). -/
theorem State.transact_write_readOnly (s : State) {r : Register} (hr : r.writable = false) (v : Word) :
    s.transact (.write (BitVec.ofNat 32 r.offset) .four v) = s.raiseHerr := by
  have hs : r ≠ .status := by rintro rfl; cases hr
  rw [State.transact_write_register, State.writeRegisterAccess, if_neg hs, if_neg (by simp [hr])]

/-- While a command is in flight a write of any register but STATUS is ignored and sets HERR (R85). -/
theorem State.transact_write_busy {s : State} (hb : s.busy = true) {r : Register} (hr : r ≠ .status) (v : Word) :
    s.transact (.write (BitVec.ofNat 32 r.offset) .four v) = s.raiseHerr := by
  rw [State.transact_write_register, State.writeRegisterAccess, if_neg hr, if_neg (by simp [hb])]

/-- A legal buffer size is a value its 32-bit register holds (R9, R47). -/
theorem Buffer.size_word_toNat {p : Config.Params} (hp : p.Valid) (b : Buffer) :
    (BitVec.ofNat 32 (b.size p)).toNat = b.size p := by
  have hs := Buffer.size_le hp b
  rw [BitVec.toNat_ofNat, Nat.mod_eq_of_lt (by omega)]

/-- Issue leaves every operand, buffer and result of the block as it was (R34). -/
theorem State.issue_frame (s : State) (v : Word) :
    s.SameOperandRegisters (s.issue v) ∧ s.SameInputs (s.issue v) ∧ s.SameBits (s.issue v) ∧
      s.SameOutput (s.issue v) ∧ (s.issue v).result = s.result :=
  ⟨⟨rfl, rfl, rfl, rfl, rfl, rfl, rfl⟩,
    ⟨fun i => State.ibufAt_congr rfl rfl i, fun i => State.cbufAt_congr rfl rfl i⟩,
    ⟨rfl, fun i => State.bbufAt_congr rfl rfl i⟩, ⟨rfl, fun i => State.obufAt_congr rfl rfl i⟩, rfl⟩

end Sys2Proof.Machine
end

section
/-! SUPPORT. The words R114 lists are no commands, and what completing one does; and ARBITRATE.F with an illegal fraction. -/

namespace Sys2Proof.Machine

/-- A field of a word that the reserved mask covers is 0 once the mask finds no bit (R110). -/
theorem reserved_field_eq_zero {w : Word} (h : w &&& reservedMask = 0#32) {start len : Nat}
    (hm : reservedMask.extractLsb' start len = BitVec.allOnes len) : (w.extractLsb' start len).toNat = 0 := by
  have hf : w.extractLsb' start len = (w &&& reservedMask).extractLsb' start len := by
    rw [BitVec.extractLsb'_and, hm, BitVec.and_allOnes]
  rw [hf, h]
  simp

/-- With the reserved mask clear, bits [7:4] and [31:9] are 0 (R110). -/
theorem reserved_clear_toNat {w : Word} (h : w &&& reservedMask = 0#32) :
    w.toNat / 16 % 16 = 0 ∧ w.toNat / 512 = 0 := by
  have h4 := reserved_field_eq_zero h (start := 4) (len := 4) (by decide)
  have h9 := reserved_field_eq_zero h (start := 9) (len := 23) (by decide)
  rw [BitVec.extractLsb'_toNat, Nat.shiftRight_eq_div_pow] at h4 h9
  have hlt := w.isLt
  omega

theorem opcodeMap_unassigned {n : Nat} (h : n = 0 ∨ 10 ≤ n) : opcodeMap n = .illegal .opcodeUnassigned := by
  rcases h with rfl | h
  · rfl
  · obtain ⟨k, rfl⟩ := Nat.exists_eq_add_of_le' h
    rfl

/-- Every word R114 lists decodes as illegal, whichever of its causes the decoder meets first (R113). -/
theorem decode_illegalWord {w : Word} (h : IllegalWord w) : ∃ why, decode w = .illegal why := by
  have opc : (w.extractLsb' 0 4).toNat = w.toNat % 16 := by simp
  have fbit : w.getLsbD 8 = decide (w.toNat / 256 % 2 = 1) := by
    rw [← BitVec.testBit_toNat, Nat.testBit_eq_decide_div_mod_eq]
  by_cases hres : w &&& reservedMask = 0#32
  · obtain ⟨h4, h9⟩ := reserved_clear_toNat hres
    have hopc : w.extractLsb' 0 4 ≠ 6#4 := by
      intro e
      have e6 : w.toNat % 16 = 6 := by rw [← opc, e]; rfl
      unfold IllegalWord at h
      omega
    by_cases hf : w.getLsbD 8 = true
    · exact ⟨.fractionBitMisplaced, by simp [decode, hres, hopc, hf]⟩
    · have hopc' : w.toNat % 16 = 0 ∨ 10 ≤ w.toNat % 16 := by
        rw [fbit, decide_eq_true_eq] at hf
        unfold IllegalWord at h
        omega
      refine ⟨.opcodeUnassigned, ?_⟩
      rw [decode, if_neg (not_not.mpr hres), if_neg hopc, if_neg hf, opc, opcodeMap_unassigned hopc']
  · exact ⟨.reservedBitSet, by rw [decode, if_pos hres]⟩

/-- A latched word that is no command completes as a failure with IllegalCommand (R114). -/
theorem completeLatched_illegalWord {s : State} (h : IllegalWord s.latch) :
    completeLatched s = .next (s.complete (.error .illegalCommand)) := by
  obtain ⟨why, hd⟩ := decode_illegalWord h
  rw [completeLatched, hd]

/-- ARBITRATE.F with a message that IBUF holds and a fraction outside (0, 1] raises InvalidFraction (R197). -/
theorem arbitrateFResult_invalidFraction {s : State} (hi : s.ilen.toNat ≤ s.params.ibufSize)
    (hf : ¬ (0 < s.fracNum.toNat ∧ s.fracNum.toNat ≤ s.fracDen.toNat)) :
    arbitrateFResult s = .error .invalidFraction := by
  rw [arbitrateFResult, if_neg (by rw [State.ilenTooLarge_iff]; omega), if_pos (s.fractionInvalid_iff.mpr hf)]

end Sys2Proof.Machine
end

section
/-! PROOFS. Reset and the registers of R33 to R38, R47 and R48. -/

namespace Sys2Proof.Machine

/-- Settles O25: no register stands at a reserved offset, so every access there reaches nothing. -/
theorem reservedOffsets : Obligations.ReservedOffsets := by
  intro s a v size hlo hhi
  have ht : target s.params a size = none := target_window0_past_registers s.params size hlo (by omega)
  exact ⟨State.transact_read_of_target_none ht, State.transact_write_of_target_none v ht⟩

/-- Settles O1: the registers are the literals of the reset state, and its fraction 0 / 0 is what ARBITRATE.F refuses. -/
theorem resetRegisterValues : Obligations.ResetRegisterValues := by
  refine ⟨rfl, rfl, rfl, rfl, rfl, rfl, rfl, rfl, rfl, rfl, rfl, rfl, rfl, rfl, rfl, rfl, rfl, rfl, ?_⟩
  have hr : arbitrateFResult State.reset = .error .invalidFraction :=
    arbitrateFResult_invalidFraction (by decide) (by decide)
  refine ⟨State.reset.complete (.error .invalidFraction), ?_, State.complete_error_failed _ .invalidFraction⟩
  rw [exec, execArbitrateF, hr]

/-- Settles O17: a write of CMD is `issue` while idle and an error while busy, and an illegal latch fails at completion. -/
theorem commandWriteIssues : Obligations.CommandWriteIssues := by
  refine ⟨fun s h => ⟨_, completeLatched_illegalWord h, s.complete_error_failed .illegalCommand⟩, fun s v => ⟨?_, ?_, ?_⟩⟩
  · intro hb
    have hw : s.transact (.write 0x04#32 .four v) = s.issue v :=
      State.transact_write_idle hb (r := .cmd) (by decide) rfl v
    rw [hw]
    exact ⟨rfl, rfl, rfl, rfl, rfl, rfl, rfl, s.issue_frame v⟩
  · exact fun hb => State.transact_write_busy hb (r := .cmd) (by decide) v
  · exact s.transact_read_exact (r := .cmd) rfl

/-- Settles O18: ID reads exactly at any time, and is read-only. -/
theorem identificationRegister : Obligations.IdentificationRegister := fun s v =>
  ⟨s.transact_read_exact (r := .id) rfl, s.transact_write_readOnly (r := .id) rfl v⟩

/-- Settles O20: STATUS takes a write at any time, and every other register refuses one while busy. -/
theorem statusWriteClearsHerr : Obligations.StatusWriteClearsHerr := fun s v =>
  ⟨s.transact_write_status v, fun hb _ hr => State.transact_write_busy hb hr v⟩

/-- Settles O21: while idle WIDTH and HEIGHT take `v` cut to 16 bits, and read zero-extended. -/
theorem dimensionRegisters : Obligations.DimensionRegisters := by
  intro s v hb
  simp only [BitVec.ofNat_toNat]
  exact ⟨State.transact_write_idle hb (r := .width) (by decide) rfl v,
    State.transact_write_idle hb (r := .height) (by decide) rfl v,
    State.transact_read_idle hb .width, State.transact_read_idle hb .height⟩

/-- Settles O24: the size registers read exactly at any time, a legal size fits the word, and they are read-only. -/
theorem sizeRegisters : Obligations.SizeRegisters := by
  intro s v hp
  refine ⟨⟨_, s.transact_read_exact (r := .ibufSize) rfl, Buffer.size_word_toNat hp .ibuf⟩,
    ⟨_, s.transact_read_exact (r := .cbufSize) rfl, Buffer.size_word_toNat hp .cbuf⟩,
    ⟨_, s.transact_read_exact (r := .bbufSize) rfl, Buffer.size_word_toNat hp .bbuf⟩,
    ⟨_, s.transact_read_exact (r := .obufSize) rfl, Buffer.size_word_toNat hp .obuf⟩, ?_⟩
  simp only [List.forall_mem_cons]
  exact ⟨s.transact_write_readOnly (r := .ibufSize) rfl v, s.transact_write_readOnly (r := .cbufSize) rfl v,
    s.transact_write_readOnly (r := .bbufSize) rfl v, s.transact_write_readOnly (r := .obufSize) rfl v,
    List.forall_mem_nil _⟩

end Sys2Proof.Machine
end

section
/-! SUPPORT. Transactions that reach a buffer cell, in each condition of the access, and the cells after a write (R83, R85); and the
access errors of R245 (a) to (c). -/

namespace Sys2Proof.Machine

/-! A bad access (R82 to R84). -/

theorem State.transact_read_of_badAccess {s : State} {a : Word} {size : Size} (hp : s.params.Valid)
    (h : BadAccess s.params a size) : s.transact (.read a size) = s.raiseHerr.reply 0#32 :=
  State.transact_read_of_target_none ((target_eq_none_iff hp a size).mpr h)

theorem State.transact_write_of_badAccess {s : State} {a : Word} {size : Size} (hp : s.params.Valid)
    (h : BadAccess s.params a size) (v : Word) : s.transact (.write a size v) = s.raiseHerr :=
  State.transact_write_of_target_none v ((target_eq_none_iff hp a size).mpr h)

/-- A cell's address is a 32-bit address inside that buffer (R81). -/
theorem mappedCell_of_lt {p : Config.Params} (hp : p.Valid) (b : Buffer) {i : Nat} (h : i < b.size p) :
    MappedCell p b (BitVec.ofNat 32 (b.base + i)).toNat := by
  have hs := Buffer.size_le hp b
  have hbase : b.base ≤ 0x40000000 := by cases b <;> decide
  rw [BitVec.toNat_ofNat, Nat.mod_eq_of_lt (by omega)]
  exact ⟨Nat.le_add_right _ _, Nat.add_lt_add_left h _⟩

/-- A buffer cell accessed with size 2 or 4 is a bad access (R83). -/
theorem badAccess_cell {p : Config.Params} (hp : p.Valid) (b : Buffer) {i : Nat} (h : i < b.size p) {size : Size}
    (hsize : size ≠ .one) : BadAccess p (BitVec.ofNat 32 (b.base + i)) size :=
  .inr (.inl ⟨⟨b, mappedCell_of_lt hp b h⟩, hsize⟩)

/-! A size-1 access at the address of a cell (R83). -/

theorem State.transact_read_cell {s : State} (hp : s.params.Valid) (b : Buffer) {i : Nat} (h : i < b.size s.params) :
    s.transact (.read (BitVec.ofNat 32 (b.base + i)) .one) = s.readCellAccess b i := by
  rw [State.transact, State.hostRead, target_cell hp b h]

theorem State.transact_write_cell {s : State} (hp : s.params.Valid) (b : Buffer) {i : Nat} (h : i < b.size s.params)
    (v : Word) : s.transact (.write (BitVec.ofNat 32 (b.base + i)) .one v) = s.writeCellAccess b i (v.setWidth 8) := by
  rw [State.transact, State.hostWrite, target_cell hp b h]

/-- While idle every cell reads as it is. -/
theorem State.transact_read_cell_idle {s : State} (hp : s.params.Valid) (hb : s.busy = false) (b : Buffer) {i : Nat}
    (h : i < b.size s.params) :
    s.transact (.read (BitVec.ofNat 32 (b.base + i)) .one) = s.reply ((s.readCell b i).setWidth 32) := by
  rw [State.transact_read_cell hp b h, State.readCellAccess, if_neg (by simp [hb])]

/-- While idle a write of a cell of IBUF, CBUF or BBUF writes it. -/
theorem State.transact_write_cell_idle {s : State} (hp : s.params.Valid) (hb : s.busy = false) {b : Buffer}
    (hw : b.writable = true) {i : Nat} (h : i < b.size s.params) (v : Word) :
    s.transact (.write (BitVec.ofNat 32 (b.base + i)) .one v) = s.writeCell b i (v.setWidth 8) := by
  rw [State.transact_write_cell hp b h, State.writeCellAccess, if_pos (by simp [hb, hw])]

/-- OBUF is read-only: a write of one of its cells only sets HERR, busy or not (R52). -/
theorem State.transact_write_obuf {s : State} (hp : s.params.Valid) {i : Nat} (h : i < s.params.obufSize) (v : Word) :
    s.transact (.write (BitVec.ofNat 32 (Buffer.obuf.base + i)) .one v) = s.raiseHerr := by
  rw [State.transact_write_cell hp .obuf h, State.writeCellAccess, if_neg (by simp [Buffer.writable])]

/-- A BBUF cell reads as the number 0 or 1 (R83). -/
theorem State.readCell_bbuf_word (s : State) (i : Nat) :
    (s.readCell .bbuf i).setWidth 32 = BitVec.ofNat 32 (s.bbufAt i).toNat := by
  rw [State.readCell]
  cases s.bbufAt i <;> rfl

/-! The cells after a write of one: that cell, and every other as it was. -/

theorem Memory.find_write_one {α : Type} (m : Memory α) (i j : Nat) (v : α) :
    Memory.find (Memory.write m i [v]) j = if j = i then some v else Memory.find m j := by
  split
  · next h => subst h; rw [Memory.find_write_inside m [v] (le_refl j) (by simp)]; simp
  · next h => exact Memory.find_write_outside m [v] (by simp only [List.length_singleton]; omega)

theorem State.writeCell_ibufAt (s : State) (i j : Nat) (v : Byte) :
    (s.writeCell .ibuf i v).ibufAt j = if j = i then v else s.ibufAt j := by
  rw [State.ibufAt, State.writeCell, Memory.find_write_one]
  split <;> rfl

theorem State.writeCell_cbufAt (s : State) (i j : Nat) (v : Byte) :
    (s.writeCell .cbuf i v).cbufAt j = if j = i then v else s.cbufAt j := by
  rw [State.cbufAt, State.writeCell, Memory.find_write_one]
  split <;> rfl

theorem State.writeCell_bbufAt (s : State) (i j : Nat) (v : Byte) :
    (s.writeCell .bbuf i v).bbufAt j = if j = i then v.getLsbD 0 else s.bbufAt j := by
  rw [State.bbufAt, State.writeCell, Memory.find_write_one]
  split <;> rfl

end Sys2Proof.Machine
end

section
/-! PROOFS. The memory map: buffer cells and access errors (R82 to R84). -/

namespace Sys2Proof.Machine

/-- Settles O27: each of the two kinds of access is one of the bad accesses, and a bad access reaches nothing. -/
theorem accessErrors : Obligations.AccessErrors := by
  intro s a size v hp h
  have hbad : BadAccess s.params a size := by
    rcases h with ⟨hlo, hunmapped⟩ | hreg
    · exact .inr (.inr ⟨by omega, hunmapped⟩)
    · exact .inl hreg
  exact ⟨State.transact_read_of_badAccess hp hbad, State.transact_write_of_badAccess hp hbad v⟩

/-- Settles O26: a size-1 access reaches the cell, which `writeCell` alone changes; any other size at a cell is a bad access. -/
theorem bufferCellAccess : Obligations.BufferCellAccess := by
  intro s i v hp
  simp only [BitVec.ofNat_toNat]
  refine ⟨fun hi hb => ?_, fun hi hb => ?_, fun hi hb => ?_, fun hi => ⟨fun hb => ?_, ?_⟩, fun b size hi hsize => ?_⟩
  · have hw : s.transact (.write (BitVec.ofNat 32 (0x10000000 + i)) .one v) = s.writeCell .ibuf i (v.setWidth 8) :=
      State.transact_write_cell_idle hp hb (b := .ibuf) rfl hi v
    rw [hw]
    exact ⟨State.transact_read_cell_idle hp hb .ibuf hi, fun j => s.writeCell_ibufAt i j _, _, rfl⟩
  · have hw : s.transact (.write (BitVec.ofNat 32 (0x20000000 + i)) .one v) = s.writeCell .cbuf i (v.setWidth 8) :=
      State.transact_write_cell_idle hp hb (b := .cbuf) rfl hi v
    rw [hw]
    exact ⟨State.transact_read_cell_idle hp hb .cbuf hi, fun j => s.writeCell_cbufAt i j _, _, rfl⟩
  · have hw : s.transact (.write (BitVec.ofNat 32 (0x30000000 + i)) .one v) = s.writeCell .bbuf i (v.setWidth 8) :=
      State.transact_write_cell_idle hp hb (b := .bbuf) rfl hi v
    have hbit : (v.setWidth 8).getLsbD 0 = v.getLsbD 0 := by simp
    rw [hw, ← State.readCell_bbuf_word, ← hbit]
    exact ⟨State.transact_read_cell_idle hp hb .bbuf hi, fun j => s.writeCell_bbufAt i j _, _, rfl⟩
  · exact State.transact_read_cell_idle hp hb .obuf hi
  · exact State.transact_write_obuf hp hi v
  · have hbad := badAccess_cell hp b hi hsize
    exact ⟨State.transact_read_of_badAccess hp hbad, State.transact_write_of_badAccess hp hbad v⟩

end Sys2Proof.Machine
end

section
/-! SUPPORT. Decoding and encoding are inverse on the legal words, and a word that R114 does not list is the encoding of a command
(R112 to R114). -/

namespace Sys2Proof.Machine

/-- The decoder reads back every command's word (R112). -/
theorem decode_encode (i : Instr) : decode (encode i) = .command i := by
  cases i <;> decide

/-- Outside R114's list the reserved bits are clear, OPC is 1 to 9, and F is set only on OPC 6: ten values remain (R112). -/
theorem word_cases_of_not_illegalWord {w : Word} (h : ¬ IllegalWord w) :
    w.toNat = 0x106 ∨ (1 ≤ w.toNat ∧ w.toNat ≤ 9) := by
  unfold IllegalWord at h
  omega

theorem exists_encode_of_not_illegalWord {w : Word} (h : ¬ IllegalWord w) : ∃ i, encode i = w := by
  simp only [← BitVec.toNat_inj]
  rcases word_cases_of_not_illegalWord h with hF | ⟨hlo, hhi⟩
  · exact ⟨.arbitrateF, hF.symm⟩
  · interval_cases w.toNat
    exacts [⟨.unpack, rfl⟩, ⟨.pack, rfl⟩, ⟨.capacity, rfl⟩, ⟨.frame, rfl⟩, ⟨.parse, rfl⟩, ⟨.arbitrate, rfl⟩,
      ⟨.embed, rfl⟩, ⟨.exthdr, rfl⟩, ⟨.extmsg, rfl⟩]

/-- A word decodes to no command exactly when R114 lists it. -/
theorem decode_ne_command_iff (w : Word) : (∀ i, decode w ≠ .command i) ↔ IllegalWord w := by
  constructor
  · intro hnone
    by_contra hlegal
    obtain ⟨i, rfl⟩ := exists_encode_of_not_illegalWord hlegal
    exact hnone i (decode_encode i)
  · intro hill i hcmd
    obtain ⟨why, hwhy⟩ := decode_illegalWord hill
    exact nomatch hwhy.symm.trans hcmd

/-- A word decodes to a command exactly when it is the command's own word (R112, R113). -/
theorem decode_eq_command_iff (w : Word) (i : Instr) : decode w = .command i ↔ encode i = w := by
  constructor
  · intro hcmd
    have hlegal : ¬ IllegalWord w := fun hill => (decode_ne_command_iff w).mpr hill i hcmd
    obtain ⟨j, rfl⟩ := exists_encode_of_not_illegalWord hlegal
    rw [decode_encode, Decoded.command.injEq] at hcmd
    rw [hcmd]
  · rintro rfl
    exact decode_encode i

end Sys2Proof.Machine
end

section
/-! PROOFS. The legal words of R112 and the illegal words of R114. -/

namespace Sys2Proof.Machine

/-- Settles O5: a word decodes to a command just when it is that command's encoding, and the table lists each command with its
encoding. -/
theorem exactlyTenLegalWords : Obligations.ExactlyTenLegalWords := by
  intro w i
  rw [decode_eq_command_iff]
  constructor
  · rintro rfl
    cases i <;> decide
  · intro hrow
    fin_cases hrow <;> rfl

/-- Settles O7: the decoder knows just the words R114 leaves, and a due illegal word completes as the failure IllegalCommand. -/
theorem illegalWordsCompleteWithCode13 : Obligations.IllegalWordsCompleteWithCode13 := by
  refine ⟨decode_ne_command_iff, fun s hb hw hill => ⟨s.complete (.error .illegalCommand), ?_, ?_, ?_⟩⟩
  · rw [step_due hb hw, completeLatched_illegalWord hill]
  · exact s.complete_error_failed .illegalCommand
  · exact s.complete_error_frame .illegalCommand

end Sys2Proof.Machine
end

section
/-! SUPPORT. The codec: bytes_to_bits and bits_to_bytes invert each other, and the outcome of UNPACK and PACK in each case of their
checks (R140 to R144). -/

namespace Sys2Proof.Machine

/-- A command whose rule raises an error completes as that failure, and writes only STATUS and the latch (R242). -/
theorem exec_fails {i : Instr} {s : State} {e : ErrorCode} (h : exec i s = .next (s.complete (.error e))) :
    ∃ t, exec i s = .next t ∧ t.FailedWith e.code.toNat ∧ s.FailureFrame t :=
  ⟨_, h, s.complete_error_failed e, s.complete_error_frame e⟩

/-! bits_to_bytes (R143). -/

theorem bitsToBytes_of_mod_eq_zero {b : List Bit} (h : b.length % 8 = 0) : bitsToBytes b = .ok (packGroups b) := by
  rw [bitsToBytes, if_neg (not_not.mpr h)]

theorem bitsToBytes_of_mod_ne_zero {b : List Bit} (h : b.length % 8 ≠ 0) : bitsToBytes b = .error .invalidLength := by
  rw [bitsToBytes, if_pos h]

/-! The two inverse laws (R144), by the elements: bit 8k + j of the sequence is bit 7 − j of byte k, in both directions. -/

/-- Bytes are compared bit 7 first, the order of R16. -/
theorem byte_eq_of_msbFirst {b c : Byte} (h : ∀ j < 8, b.getLsbD (7 - j) = c.getLsbD (7 - j)) : b = c := by
  refine BitVec.eq_of_getLsbD_eq fun i hi => ?_
  have hbit := h (7 - i) (by omega)
  rwa [show 7 - (7 - i) = i by omega] at hbit

theorem packGroups_bytesToBits (x : List Byte) : packGroups (bytesToBits x) = x := by
  have hlen : (packGroups (bytesToBits x)).length = x.length := by
    rw [packGroups_length, bytesToBits_length, Nat.mul_div_cancel_left _ (by decide)]
  refine List.ext_getElem hlen fun k hk hx => byte_eq_of_msbFirst fun j hj => ?_
  exact Option.some.inj ((packGroups_getElem _ k j hk hj).symm.trans (bytesToBits_getElem x k j hx hj))

theorem bytesToBits_packGroups {b : List Bit} (h : b.length % 8 = 0) : bytesToBits (packGroups b) = b := by
  have hlen : (bytesToBits (packGroups b)).length = b.length := by
    rw [bytesToBits_length, packGroups_length]
    omega
  refine List.ext_getElem hlen fun i hi hb => Option.some.inj ?_
  have hk : i / 8 < (packGroups b).length := by
    rw [packGroups_length]
    omega
  have hj : i % 8 < 8 := Nat.mod_lt i (by decide)
  have hbit := (bytesToBits_getElem _ _ _ hk hj).trans (packGroups_getElem b _ _ hk hj).symm
  rwa [Nat.div_add_mod, List.getElem?_eq_getElem hi, List.getElem?_eq_getElem hb] at hbit

/-! UNPACK (R140). -/

theorem exec_unpack_outOfRange {s : State} (h : s.params.ibufSize < s.ilen.toNat) :
    exec .unpack s = .next (s.complete (.error .operandOutOfRange)) := by
  rw [exec, execUnpack, unpackResult, if_pos (s.ilenTooLarge_iff.mpr h)]

theorem exec_unpack_ok {s : State} (h : s.ilen.toNat ≤ s.params.ibufSize) :
    exec .unpack s = .next (s.complete (.ok ⟨.bbuf (bytesToBits s.message), 8 * s.ilen.toNat, false⟩)) := by
  rw [exec, execUnpack, unpackResult, if_neg (by rw [s.ilenTooLarge_iff]; omega)]

/-! PACK (R141). -/

theorem exec_pack_outOfRange {s : State} (h : s.params.bbufSize < s.blen.toNat) :
    exec .pack s = .next (s.complete (.error .operandOutOfRange)) := by
  rw [exec, execPack, packResult, if_pos (s.blenTooLarge_iff.mpr h)]

theorem exec_pack_invalidLength {s : State} (h : s.blen.toNat ≤ s.params.bbufSize) (h8 : s.blen.toNat % 8 ≠ 0) :
    exec .pack s = .next (s.complete (.error .invalidLength)) := by
  rw [exec, execPack, packResult, if_neg (by rw [s.blenTooLarge_iff]; omega),
    bitsToBytes_of_mod_ne_zero (by rwa [s.bits_length])]

theorem exec_pack_ok {s : State} (h : s.blen.toNat ≤ s.params.bbufSize) (h8 : s.blen.toNat % 8 = 0) :
    exec .pack s = .next (s.complete (.ok ⟨.obuf (packGroups s.bits), s.blen.toNat / 8, false⟩)) := by
  rw [exec, execPack, packResult, if_neg (by rw [s.blenTooLarge_iff]; omega),
    bitsToBytes_of_mod_eq_zero (by rwa [s.bits_length])]

end Sys2Proof.Machine
end

section
/-! PROOFS. The BitStream codec (R140, R141, R144). -/

namespace Sys2Proof.Machine

/-- Settles O34: BBUF takes bytes_to_bits of the message, whose elements are the bits of IBUF's bytes; legal sizes keep 8·ILEN
within BLEN. -/
theorem unpackWritesBits : Obligations.UnpackWritesBits := by
  refine ⟨rfl, fun s hp hi => ?_, fun s hi => exec_fails (exec_unpack_outOfRange hi)⟩
  obtain ⟨-, hsize, -, -, hbbuf, -⟩ := hp
  have hlen : (bytesToBits s.message).length = 8 * s.ilen.toNat := by rw [bytesToBits_length, s.message_length]
  obtain ⟨hblen, hbits, hrest, hout⟩ := s.complete_ok_bbuf (bytesToBits s.message) (8 * s.ilen.toNat) false
  rw [hlen] at hblen hrest
  refine ⟨_, exec_unpack_ok hi, s.complete_ok_succeeded _, s.complete_frame _, hout,
    ?_, ?_, fun k hk j hj => ?_, hrest⟩
  · rw [hblen, BitVec.toNat_ofNat, Nat.mod_eq_of_lt (by omega)]
  · rw [s.complete_ok_result, BitVec.toNat_ofNat, Nat.mod_eq_of_lt (by dsimp only; omega)]
  · rw [hbits _ (by omega), bytesToBits_getElem_of_lt _ k j (by rwa [s.message_length]) hj, s.message_getElem]

/-- Settles O35: OBUF takes bits_to_bytes of the bit operand, whose bytes have its elements as their bits; the two failures are
the two checks of the rule, in order. -/
theorem packWritesBytes : Obligations.PackWritesBytes := by
  refine ⟨rfl, fun s hb h8 => ?_, fun s hb => exec_fails (exec_pack_outOfRange hb),
    fun s hb h8 => exec_fails (exec_pack_invalidLength hb h8)⟩
  have hlt := s.blen.isLt
  have hlen : (packGroups s.bits).length = s.blen.toNat / 8 := by rw [packGroups_length, s.bits_length]
  obtain ⟨holen, hbytes, hrest, hbits⟩ := s.complete_ok_obuf (packGroups s.bits) (s.blen.toNat / 8) false
  rw [hlen] at holen hrest
  refine ⟨_, exec_pack_ok hb h8, s.complete_ok_succeeded _, s.complete_frame _, hbits,
    ?_, ?_, fun k hk j hj => ?_, hrest⟩
  · rw [holen, BitVec.toNat_ofNat, Nat.mod_eq_of_lt (by omega)]
  · rw [s.complete_ok_result, BitVec.toNat_ofNat, Nat.mod_eq_of_lt (by dsimp only; omega)]
  · have hbit := packGroups_getElem s.bits k j (by omega) hj
    rw [List.getElem?_eq_getElem (by rw [s.bits_length]; omega), s.bits_getElem] at hbit
    rw [hbytes k (by omega)]
    exact (Option.some.inj hbit).symm

/-- Settles O52: the sequence laws are the inverse laws of packing, and on the commands each bit of a byte goes to BBUF by UNPACK
and comes back to the same place by PACK. -/
theorem unpackPackRoundTrip : Obligations.UnpackPackRoundTrip := by
  refine ⟨fun x => ?_, fun b h8 => ⟨_, bitsToBytes_of_mod_eq_zero h8, bytesToBits_packGroups h8⟩, fun s hp hi => ?_⟩
  · rw [bitsToBytes_of_mod_eq_zero (by rw [bytesToBits_length]; omega), packGroups_bytesToBits]
  · obtain ⟨-, unpackOk, -⟩ := unpackWritesBits
    obtain ⟨-, packOk, -⟩ := packWritesBytes
    obtain ⟨t, ht, -, hframe, -, hblen, -, hunpacked, -⟩ := unpackOk s hp hi
    have hfits : t.blen.toNat ≤ t.params.bbufSize := by
      obtain ⟨-, hsize, -⟩ := hp
      rw [hblen, hframe.surroundings.params]
      omega
    obtain ⟨u, hu, hok, -, -, holen, -, hpacked, -⟩ := packOk t hfits (by omega)
    refine ⟨t, u, ht, hu, hok, BitVec.eq_of_toNat_eq (by omega), fun k hk => byte_eq_of_msbFirst fun j hj => ?_⟩
    calc (u.obufAt k).getLsbD (7 - j) = t.bbufAt (8 * k + j) := hpacked k (by omega) j hj
      _ = (s.ibufAt k).getLsbD (7 - j) := hunpacked k hk j hj

end Sys2Proof.Machine
end

section
/-! SUPPORT. The outcome of CAPACITY in each case of its check (R160, R161). -/

namespace Sys2Proof.Machine

theorem exec_capacity_unsupportedDepth {s : State} (h : s.bpc ≠ 1#32) :
    exec .capacity s = .next (s.complete (.error .unsupportedDepth)) := by
  rw [exec, execCapacity, capacityResult, s.capacity_unsupported h]

theorem exec_capacity_ok {s : State} (h : s.bpc = 1#32) :
    exec .capacity s = .next (s.complete (.ok ⟨.none, s.width.toNat * s.height.toNat * 3, false⟩)) := by
  rw [exec, execCapacity, capacityResult, s.capacity_supported h]

end Sys2Proof.Machine
end

section
/-! PROOFS. The capacity model (R160, R161). -/

namespace Sys2Proof.Machine

/-- Settles O36: CAPACITY has no destination and W·H·3 is below 2^34, so the 64-bit RESULT holds it exactly; its one failure is
the depth check. -/
theorem capacityIsExact : Obligations.CapacityIsExact := by
  refine ⟨rfl, fun s hbpc => ?_, fun s hbpc => exec_fails (exec_capacity_unsupportedDepth hbpc)⟩
  obtain ⟨hbits, hout⟩ := s.complete_ok_none (s.width.toNat * s.height.toNat * 3) false
  refine ⟨_, exec_capacity_ok hbpc, s.complete_ok_succeeded _, s.complete_frame _, hbits, hout, ?_⟩
  rw [s.complete_ok_result, BitVec.toNat_ofNat, Nat.mod_eq_of_lt (s.capacity_lt.trans (by decide))]

end Sys2Proof.Machine
end

section
/-! SUPPORT. Framing: the header's number and its 32 bits, what a completed frame leaves in BBUF, what parse_frame reads from a bit
sequence given by its elements, and the outcome of FRAME and PARSE in each case of their checks (R170 to R175). -/

namespace Sys2Proof.Machine

/-! The header (R17, R173). -/

/-- Bits 31 down to 0 of a 32-bit number, read back as a header, are that number: they are the bits of its be32. -/
theorem headerValue_eq_of_testBit {b : Nat → Bit} {n : Nat} (hn : n < 2 ^ 32) (h : ∀ i < 32, b i = n.testBit (31 - i)) :
    headerValue b = n := by
  have hlen : (bytesToBits (be32 n)).length = 32 := by rw [bytesToBits_length, be32_length]
  have hb : ∀ i < 32, (bytesToBits (be32 n))[i]? = some (b i) := fun i hi => by rw [bytesToBits_be32 n i hi, h i hi]
  calc headerValue b = bitsValue ((bytesToBits (be32 n)).take 32) := (bitsValue_header _ b hlen.ge hb).symm
    _ = fromBe32 (packGroups (bytesToBits (be32 n))) := by
      rw [List.take_of_length_le hlen.le, fromBe32_packGroups _ hlen]
    _ = n := by rw [packGroups_bytesToBits, fromBe32_be32 n hn]

theorem State.bits_getElem?_of_lt (s : State) {i : Nat} (h : i < s.bits.length) : s.bits[i]? = some (s.bbufAt i) := by
  rw [List.getElem?_eq_getElem h, s.bits_getElem]

/-- The header of the bit operand is the header value of BBUF. -/
theorem State.bitsValue_header_bits (s : State) (h : 32 ≤ s.blen.toNat) :
    bitsValue (s.bits.take 32) = headerValue s.bbufAt := by
  have hlen : 32 ≤ s.bits.length := by rwa [s.bits_length]
  exact bitsValue_header s.bits s.bbufAt hlen fun i hi => s.bits_getElem?_of_lt (hi.trans_le hlen)

/-! A frame in BBUF (R172). -/

/-- A success that writes a frame to BBUF: BLEN, the header's bits, the payload's bits, the rest of BBUF, and OBUF untouched. -/
theorem State.complete_ok_frame (s : State) (n : Nat) (msg : List Byte) (r : Nat) (cut : Bit) :
    (s.complete (.ok ⟨.bbuf (bytesToBits (be32 n ++ msg)), r, cut⟩)).blen = BitVec.ofNat 32 (32 + 8 * msg.length) ∧
      (∀ i < 32, (s.complete (.ok ⟨.bbuf (bytesToBits (be32 n ++ msg)), r, cut⟩)).bbufAt i = n.testBit (31 - i)) ∧
      (∀ k (hk : k < msg.length), ∀ j < 8,
        (s.complete (.ok ⟨.bbuf (bytesToBits (be32 n ++ msg)), r, cut⟩)).bbufAt (32 + 8 * k + j) =
          msg[k].getLsbD (7 - j)) ∧
      (∀ i, 32 + 8 * msg.length ≤ i →
        (s.complete (.ok ⟨.bbuf (bytesToBits (be32 n ++ msg)), r, cut⟩)).bbufAt i = s.bbufAt i) ∧
      s.SameOutput (s.complete (.ok ⟨.bbuf (bytesToBits (be32 n ++ msg)), r, cut⟩)) := by
  have hlen := frame_length n msg
  obtain ⟨hblen, hbits, hrest, hout⟩ := s.complete_ok_bbuf (bytesToBits (be32 n ++ msg)) r cut
  rw [hlen] at hblen hrest
  refine ⟨hblen, fun i hi => ?_, fun k hk j hj => ?_, hrest, hout⟩
  · rw [hbits i (by omega)]
    exact (List.getElem_eq_iff _).mpr (frame_headerBit n msg i hi)
  · rw [hbits _ (by omega)]
    exact (List.getElem_eq_iff _).mpr (frame_payloadBit n msg k j hk hj)

/-! parse_frame (R173, R175), of a bit sequence with the elements `f`. -/

theorem parseFrame_payload {b : List Bit} {f : Nat → Bit} (hf : ∀ i < b.length, b[i]? = some (f i))
    (hlen : 32 + 8 * headerValue f ≤ b.length) :
    ∃ payload, parseFrame b = .ok (headerValue f, payload) ∧ payload.length = headerValue f ∧
      ∀ k (hk : k < payload.length), ∀ j < 8, payload[k].getLsbD (7 - j) = f (32 + 8 * k + j) := by
  have hval : bitsValue (b.take 32) = headerValue f := bitsValue_header b f (by omega) fun i hi => hf i (by omega)
  have hok := parseFrame_ok b (by rwa [hval])
  rw [hval] at hok
  have hplen := payload_length b (headerValue f) hlen
  refine ⟨_, hok, hplen, fun k hk j hj => ?_⟩
  have hbit := payload_bit b (headerValue f) k j hlen hk hj
  rw [hf _ (by omega)] at hbit
  exact (Option.some.inj hbit).symm

/-! FRAME (R170). -/

theorem exec_frame_outOfRange {s : State} (h : s.params.ibufSize < s.ilen.toNat) :
    exec .frame s = .next (s.complete (.error .operandOutOfRange)) := by
  rw [exec, execFrame, frameResult, if_pos (s.ilenTooLarge_iff.mpr h)]

/-- A 32-bit ILEN never exceeds what the header can hold. -/
theorem exec_frame_ok {s : State} (h : s.ilen.toNat ≤ s.params.ibufSize) :
    exec .frame s =
      .next (s.complete (.ok ⟨.bbuf (bytesToBits (be32 s.ilen.toNat ++ s.message)), s.ilen.toNat, false⟩)) := by
  have hbuild := buildFrame_ok s.message (by rw [s.message_length]; exact s.ilen.isLt)
  rw [s.message_length] at hbuild
  rw [exec, execFrame, frameResult, if_neg (by rw [s.ilenTooLarge_iff]; omega), hbuild]

/-! PARSE (R171). -/

theorem exec_parse_outOfRange {s : State} (h : s.params.bbufSize < s.blen.toNat) :
    exec .parse s = .next (s.complete (.error .operandOutOfRange)) := by
  rw [exec, execParse, parseResult, if_pos (s.blenTooLarge_iff.mpr h)]

theorem exec_parse_truncatedHeader {s : State} (h : s.blen.toNat ≤ s.params.bbufSize) (h32 : s.blen.toNat < 32) :
    exec .parse s = .next (s.complete (.error .truncatedHeader)) := by
  rw [exec, execParse, parseResult, if_neg (by rw [s.blenTooLarge_iff]; omega),
    parseFrame_short _ (by rwa [s.bits_length])]

theorem exec_parse_truncatedPayload {s : State} (h : s.blen.toNat ≤ s.params.bbufSize) (h32 : 32 ≤ s.blen.toNat)
    (hL : s.blen.toNat < 32 + 8 * headerValue s.bbufAt) :
    exec .parse s = .next (s.complete (.error .truncatedPayload)) := by
  rw [exec, execParse, parseResult, if_neg (by rw [s.blenTooLarge_iff]; omega),
    parseFrame_truncated _ (by rwa [s.bits_length]) (by rwa [s.bits_length, s.bitsValue_header_bits h32])]

theorem exec_parse_ok {s : State} (h : s.blen.toNat ≤ s.params.bbufSize)
    (hL : 32 + 8 * headerValue s.bbufAt ≤ s.blen.toNat) :
    ∃ payload, exec .parse s = .next (s.complete (.ok ⟨.obuf payload, headerValue s.bbufAt, false⟩)) ∧
      payload.length = headerValue s.bbufAt ∧
      ∀ k (hk : k < payload.length), ∀ j < 8, payload[k].getLsbD (7 - j) = s.bbufAt (32 + 8 * k + j) := by
  obtain ⟨payload, hparse, hlen, hbits⟩ :=
    parseFrame_payload (fun _ => s.bits_getElem?_of_lt) (by rwa [s.bits_length])
  refine ⟨payload, ?_, hlen, hbits⟩
  rw [exec, execParse, parseResult, if_neg (by rw [s.blenTooLarge_iff]; omega), hparse]

end Sys2Proof.Machine
end

section
/-! PROOFS. Payload framing (R170, R171, R176). -/

namespace Sys2Proof.Machine

/-- Settles O37: BBUF takes build_frame of the message, whose bits are the header's and then the payload's; legal sizes keep
32 + 8·ILEN within BLEN. -/
theorem frameWritesFrame : Obligations.FrameWritesFrame := by
  refine ⟨rfl, fun s hp hi => ?_, fun s hi => exec_fails (exec_frame_outOfRange hi)⟩
  obtain ⟨-, hsize, -, -, hbbuf, -⟩ := hp
  obtain ⟨hblen, hheader, hpayload, hrest, hout⟩ := s.complete_ok_frame s.ilen.toNat s.message s.ilen.toNat false
  rw [s.message_length] at hblen hrest
  refine ⟨_, exec_frame_ok hi, s.complete_ok_succeeded _, s.complete_frame _, hout, ?_, ?_, hheader,
    fun k hk j hj => ?_, hrest⟩
  · rw [hblen, BitVec.toNat_ofNat, Nat.mod_eq_of_lt (by omega)]
  · rw [s.complete_ok_result, BitVec.toNat_ofNat, Nat.mod_eq_of_lt (by dsimp only; omega)]
  · rw [hpayload k (by rwa [s.message_length]) j hj, s.message_getElem]

/-- Settles O38: OBUF takes the payload parse_frame reads from the bit operand, and a header is below 2^32, so OLEN holds it; the
three failures are the three checks of the rule, in order. -/
theorem parseWritesPayload : Obligations.ParseWritesPayload := by
  refine ⟨rfl, fun s hb hL => ?_, fun s hb => exec_fails (exec_parse_outOfRange hb),
    fun s hb h32 => exec_fails (exec_parse_truncatedHeader hb h32),
    fun s hb h32 hL => exec_fails (exec_parse_truncatedPayload hb h32 hL)⟩
  have hlt := headerValue_lt s.bbufAt
  obtain ⟨payload, hexec, hlen, hpayload⟩ := exec_parse_ok hb hL
  obtain ⟨holen, hbytes, hrest, hbits⟩ := s.complete_ok_obuf payload (headerValue s.bbufAt) false
  rw [hlen] at holen hrest
  refine ⟨_, hexec, s.complete_ok_succeeded _, s.complete_frame _, hbits, ?_, ?_, fun k hk j hj => ?_, hrest⟩
  · rw [holen, BitVec.toNat_ofNat, Nat.mod_eq_of_lt hlt]
  · rw [s.complete_ok_result, BitVec.toNat_ofNat, Nat.mod_eq_of_lt (by dsimp only; omega)]
  · rw [hbytes k (by omega), hpayload k (by omega) j hj]

/-- Settles O53: the header FRAME writes reads back as ILEN, so PARSE takes exactly the payload, and each bit of a byte comes back
to its place. -/
theorem frameParseRoundTrip : Obligations.FrameParseRoundTrip := by
  intro s hp hi
  obtain ⟨-, frameOk, -⟩ := frameWritesFrame
  obtain ⟨-, parseOk, -⟩ := parseWritesPayload
  obtain ⟨t, ht, -, hframe, -, hblen, -, hheader, hpayload, -⟩ := frameOk s hp hi
  have hL : headerValue t.bbufAt = s.ilen.toNat := headerValue_eq_of_testBit s.ilen.isLt hheader
  have hfits : t.blen.toNat ≤ t.params.bbufSize := by
    obtain ⟨-, hsize, -⟩ := hp
    rw [hblen, hframe.surroundings.params]
    omega
  obtain ⟨u, hu, hok, -, -, holen, hresult, hparsed, -⟩ := parseOk t hfits (by omega)
  rw [hL] at holen hresult hparsed
  refine ⟨t, u, ht, hu, hok, BitVec.eq_of_toNat_eq holen, hresult, fun k hk => byte_eq_of_msbFirst fun j hj => ?_⟩
  calc (u.obufAt k).getLsbD (7 - j) = t.bbufAt (32 + 8 * k + j) := hparsed k hk j hj
    _ = (s.ibufAt k).getLsbD (7 - j) := hpayload k hk j hj

end Sys2Proof.Machine
end

section
/-! SUPPORT. The truncation policy: the bytes a budget keeps, what a success writes, and the outcome of ARBITRATE and ARBITRATE.F in
each case of their checks (R190 to R197). -/

namespace Sys2Proof.Machine

/-! The kept bytes (R193). -/

/-- How many of `n` message bytes a budget of `mb` bits keeps: all if their frame fits, else as many as fit (R192, R193). -/
def keptBytes (mb n : Nat) : Nat := if 32 + 8 * n ≤ mb then n else (mb - 32) / 8

/-- max_bits of the registers (R191). -/
theorem State.maxBits_eq (s : State) : maxBits s.pixelCount s.fracNum.toNat s.fracDen.toNat =
    8 * (s.width.toNat * s.height.toNat * 3 * s.fracNum.toNat / s.fracDen.toNat / 8) := rfl

theorem State.keptLength_eq (s : State) :
    s.keptLength = keptBytes (maxBits s.pixelCount s.fracNum.toNat s.fracDen.toNat) s.ilen.toNat := rfl

theorem keptBytes_le (mb n : Nat) : keptBytes mb n ≤ n := by
  unfold keptBytes
  split <;> omega

/-- From a budget of 32 bits on, the frame of the kept bytes fits the budget (R195). -/
theorem keptBytes_fits {mb : Nat} (n : Nat) (h : 32 ≤ mb) : 32 + 8 * keptBytes mb n ≤ mb := by
  unfold keptBytes
  split <;> omega

theorem State.keptLength_le (s : State) : s.keptLength ≤ s.ilen.toNat := keptBytes_le _ _

/-- The message ARBITRATE.F frames: the first `keptLength` bytes of its operand (R193). -/
def State.keptMessage (s : State) : List Byte := s.message.take s.keptLength

theorem State.keptMessage_length (s : State) : s.keptMessage.length = s.keptLength := by
  rw [State.keptMessage, List.length_take, s.message_length, min_eq_left s.keptLength_le]

theorem State.keptMessage_getElem (s : State) (k : Nat) (h : k < s.keptMessage.length) : s.keptMessage[k] = s.ibufAt k := by
  simp only [State.keptMessage, List.getElem_take, s.message_getElem]

/-! arbitrate with a fraction given (R192). -/

theorem arbitrateBudget_small {mb : Nat} (msg : List Byte) (h : mb < 40) :
    arbitrateBudget mb msg = .error .fractionTooSmall := if_pos h

/-- A budget of 40 bits leaves room for a byte, so the InsufficientCapacity check passes (R194). -/
theorem arbitrateBudget_ok {mb : Nat} (msg : List Byte) (h : 40 ≤ mb) :
    arbitrateBudget mb msg =
      .ok (msg.take (keptBytes mb msg.length), decide (keptBytes mb msg.length < msg.length)) := by
  have hmin : ¬ mb < Config.minFracBits := h.not_gt
  rw [arbitrateBudget, if_neg hmin]
  by_cases hfit : frameBits msg.length ≤ mb
  · have hkept : keptBytes mb msg.length = msg.length := if_pos hfit
    rw [if_pos hfit, hkept, List.take_length, decide_eq_false (lt_irrefl _)]
  · have hkept : keptBytes mb msg.length = (mb - Config.hdrBits) / 8 := if_neg hfit
    have hroom : ¬ (mb - Config.hdrBits) / 8 ≤ 0 := by simp only [Config.hdrBits]; omega
    have hcut : (mb - Config.hdrBits) / 8 < msg.length := by
      simp only [frameBits, Config.hdrBits] at hfit ⊢
      omega
    rw [if_neg hfit, if_neg hroom, hkept, decide_eq_true hcut]

/-! Framing the final message (R190). -/

/-- What a success of ARBITRATE writes for its final message: its frame, its length and the cut (R190). -/
def frameWrites (msg : List Byte) (cut : Bit) : Writes := ⟨.bbuf (bytesToBits (be32 msg.length ++ msg)), msg.length, cut⟩

theorem frameFinal_ok {msg : List Byte} (cut : Bit) (h : msg.length < 2 ^ 32) :
    frameFinal (.ok (msg, cut)) = .ok (frameWrites msg cut) := by
  rw [frameFinal, buildFrame_ok msg h, frameWrites]

/-- A success of ARBITRATE on `n` bytes: BLEN, RESULT, the header's bits, the payload's bits, the rest of BBUF, and OBUF
untouched. Legal sizes keep the frame of a message that IBUF holds within BLEN. -/
theorem State.complete_frameWrites {s t : State} {msg : List Byte} {n : Nat} {cut : Bit} (hp : s.params.Valid)
    (hn : msg.length = n) (hi : n ≤ s.params.ibufSize) (ht : t = s.complete (.ok (frameWrites msg cut))) :
    t.blen.toNat = 32 + 8 * n ∧ t.result.toNat = n ∧ (∀ i < 32, t.bbufAt i = n.testBit (31 - i)) ∧
      (∀ k (hk : k < msg.length), ∀ j < 8, t.bbufAt (32 + 8 * k + j) = msg[k].getLsbD (7 - j)) ∧
      (∀ i, 32 + 8 * n ≤ i → t.bbufAt i = s.bbufAt i) ∧ s.SameOutput t := by
  subst hn ht
  obtain ⟨-, hsize, -, -, hbbuf, -⟩ := hp
  obtain ⟨hblen, hbits⟩ := s.complete_ok_frame msg.length msg msg.length cut
  refine ⟨?_, ?_, hbits⟩
  · rw [frameWrites, hblen, BitVec.toNat_ofNat, Nat.mod_eq_of_lt (by omega)]
  · rw [frameWrites, s.complete_ok_result, BitVec.toNat_ofNat, Nat.mod_eq_of_lt (by dsimp only; omega)]

/-! ARBITRATE (R190). -/

theorem exec_arbitrate_outOfRange {s : State} (h : s.params.ibufSize < s.ilen.toNat) :
    exec .arbitrate s = .next (s.complete (.error .operandOutOfRange)) := by
  rw [exec, execArbitrate, arbitrateResult, if_pos (s.ilenTooLarge_iff.mpr h)]

theorem exec_arbitrate_payloadTooLarge {s : State} (h : s.ilen.toNat ≤ s.params.ibufSize)
    (hbig : s.width.toNat * s.height.toNat * 3 < 32 + 8 * s.ilen.toNat) :
    exec .arbitrate s = .next (s.complete (.error .payloadTooLarge)) := by
  have hwhole : s.pixelCount < frameBits s.message.length := by rwa [s.message_length]
  rw [exec, execArbitrate, arbitrateResult, if_neg (by rw [s.ilenTooLarge_iff]; omega), arbitrateWhole, if_pos hwhole,
    frameFinal]

theorem exec_arbitrate_ok {s : State} (h : s.ilen.toNat ≤ s.params.ibufSize)
    (hfit : 32 + 8 * s.ilen.toNat ≤ s.width.toNat * s.height.toNat * 3) :
    exec .arbitrate s = .next (s.complete (.ok (frameWrites s.message false))) := by
  have hwhole : ¬ s.pixelCount < frameBits s.message.length := by rw [s.message_length]; exact hfit.not_gt
  rw [exec, execArbitrate, arbitrateResult, if_neg (by rw [s.ilenTooLarge_iff]; omega), arbitrateWhole, if_neg hwhole,
    frameFinal_ok _ (by rw [s.message_length]; exact s.ilen.isLt)]

/-! ARBITRATE.F (R190, R197). -/

theorem exec_arbitrateF_outOfRange {s : State} (h : s.params.ibufSize < s.ilen.toNat) :
    exec .arbitrateF s = .next (s.complete (.error .operandOutOfRange)) := by
  rw [exec, execArbitrateF, arbitrateFResult, if_pos (s.ilenTooLarge_iff.mpr h)]

theorem exec_arbitrateF_invalidFraction {s : State} (h : s.ilen.toNat ≤ s.params.ibufSize)
    (hf : ¬ (0 < s.fracNum.toNat ∧ s.fracNum.toNat ≤ s.fracDen.toNat)) :
    exec .arbitrateF s = .next (s.complete (.error .invalidFraction)) := by
  rw [exec, execArbitrateF, arbitrateFResult_invalidFraction h hf]

/-- With a legal fraction the rule is arbitrate on the budget of the registers. -/
theorem arbitrateFResult_of_fraction {s : State} (h : s.ilen.toNat ≤ s.params.ibufSize)
    (hf : 0 < s.fracNum.toNat ∧ s.fracNum.toNat ≤ s.fracDen.toNat) :
    arbitrateFResult s =
      frameFinal (arbitrateBudget (maxBits s.pixelCount s.fracNum.toNat s.fracDen.toNat) s.message) := by
  rw [arbitrateFResult, if_neg (by rw [s.ilenTooLarge_iff]; omega),
    if_neg (by rw [s.fractionInvalid_iff]; exact not_not.mpr hf)]

theorem exec_arbitrateF_fractionTooSmall {s : State} (h : s.ilen.toNat ≤ s.params.ibufSize)
    (hf : 0 < s.fracNum.toNat ∧ s.fracNum.toNat ≤ s.fracDen.toNat)
    (hmb : 8 * (s.width.toNat * s.height.toNat * 3 * s.fracNum.toNat / s.fracDen.toNat / 8) < 40) :
    exec .arbitrateF s = .next (s.complete (.error .fractionTooSmall)) := by
  rw [← s.maxBits_eq] at hmb
  rw [exec, execArbitrateF, arbitrateFResult_of_fraction h hf, arbitrateBudget_small _ hmb, frameFinal]

theorem exec_arbitrateF_ok {s : State} (h : s.ilen.toNat ≤ s.params.ibufSize)
    (hf : 0 < s.fracNum.toNat ∧ s.fracNum.toNat ≤ s.fracDen.toNat)
    (hmb : 40 ≤ 8 * (s.width.toNat * s.height.toNat * 3 * s.fracNum.toNat / s.fracDen.toNat / 8)) :
    exec .arbitrateF s =
      .next (s.complete (.ok (frameWrites s.keptMessage (decide (s.keptLength < s.ilen.toNat))))) := by
  rw [← s.maxBits_eq] at hmb
  have hlt : s.keptMessage.length < 2 ^ 32 := by
    rw [s.keptMessage_length]
    exact s.keptLength_le.trans_lt s.ilen.isLt
  rw [exec, execArbitrateF, arbitrateFResult_of_fraction h hf, arbitrateBudget_ok _ hmb, s.message_length,
    ← s.keptLength_eq, ← State.keptMessage, frameFinal_ok _ hlt]

end Sys2Proof.Machine
end

section
/-! PROOFS. ARBITRATE.F (R190 to R193, R197). -/

namespace Sys2Proof.Machine

/-- Settles O40: BBUF takes the frame of the kept bytes, cut just when they are not the whole message; the three failures are the
three checks of the rule, in order. -/
theorem arbitrateFractionCutsPrefix : Obligations.ArbitrateFractionCutsPrefix := by
  refine ⟨rfl, fun s hp hi hnum hden hmb => ?_, fun s hi => exec_fails (exec_arbitrateF_outOfRange hi),
    fun s hi hf => exec_fails (exec_arbitrateF_invalidFraction hi hf),
    fun s hi hnum hden hmb => exec_fails (exec_arbitrateF_fractionTooSmall hi ⟨hnum, hden⟩ hmb)⟩
  have hlen := s.keptMessage_length
  obtain ⟨hblen, hresult, hheader, hpayload, hrest, hout⟩ :=
    State.complete_frameWrites hp hlen (s.keptLength_le.trans hi) rfl
  refine ⟨_, exec_arbitrateF_ok hi ⟨hnum, hden⟩ hmb, s.complete_ok_succeeded _, s.complete_frame _, hout, hblen, hresult,
    hheader, fun k hk j hj => ?_, hrest⟩
  rw [hpayload k (by rwa [hlen]) j hj, s.keptMessage_getElem]

end Sys2Proof.Machine
end

section
/-! SUPPORT. The outcome of EMBED, EXTHDR and EXTMSG in each case of their checks (R210, R220, R221, R243). -/

namespace Sys2Proof.Machine

variable {s : State}

/-! EMBED (R210). -/

theorem exec_embed_outOfRange (h : s.params.cbufSize < s.clen.toNat ∨ s.params.bbufSize < s.blen.toNat) :
    exec .embed s = .next (s.complete (.error .operandOutOfRange)) := by
  have hrange : (s.clenTooLarge || s.blenTooLarge) = true := by
    rwa [Bool.or_eq_true, s.clenTooLarge_iff, s.blenTooLarge_iff]
  rw [exec, execEmbed, embedResult, if_pos hrange]

theorem not_clenTooLarge_or_blenTooLarge (hc : s.clen.toNat ≤ s.params.cbufSize)
    (hb : s.blen.toNat ≤ s.params.bbufSize) : ¬ (s.clenTooLarge || s.blenTooLarge) = true := by
  rw [Bool.or_eq_true, s.clenTooLarge_iff, s.blenTooLarge_iff]
  omega

theorem exec_embed_unsupportedDepth (hc : s.clen.toNat ≤ s.params.cbufSize) (hb : s.blen.toNat ≤ s.params.bbufSize)
    (hd : s.bpc ≠ 1#32) : exec .embed s = .next (s.complete (.error .unsupportedDepth)) := by
  rw [exec, execEmbed, embedResult, if_neg (not_clenTooLarge_or_blenTooLarge hc hb), s.capacity_unsupported hd]

theorem exec_embed_shapeMismatch (hc : s.clen.toNat ≤ s.params.cbufSize) (hb : s.blen.toNat ≤ s.params.bbufSize)
    (hd : s.bpc = 1#32) (hs : s.clen.toNat ≠ s.width.toNat * s.height.toNat * 3) :
    exec .embed s = .next (s.complete (.error .shapeMismatch)) := by
  rw [exec, execEmbed, embedResult, if_neg (not_clenTooLarge_or_blenTooLarge hc hb), s.capacity_supported hd]
  simp only [if_pos (s.shapeDiffers_iff.mpr hs)]

theorem not_shapeDiffers (hs : s.clen.toNat = s.width.toNat * s.height.toNat * 3) : ¬ s.shapeDiffers = true :=
  fun h => s.shapeDiffers_iff.mp h hs

theorem exec_embed_messageExceedsCapacity (hc : s.clen.toNat ≤ s.params.cbufSize)
    (hb : s.blen.toNat ≤ s.params.bbufSize) (hd : s.bpc = 1#32)
    (hs : s.clen.toNat = s.width.toNat * s.height.toNat * 3)
    (hbig : s.width.toNat * s.height.toNat * 3 < s.blen.toNat) :
    exec .embed s = .next (s.complete (.error .messageExceedsCapacity)) := by
  rw [exec, execEmbed, embedResult, if_neg (not_clenTooLarge_or_blenTooLarge hc hb), s.capacity_supported hd]
  simp only [if_neg (not_shapeDiffers hs), if_pos hbig]

theorem exec_embed_ok (hc : s.clen.toNat ≤ s.params.cbufSize) (hb : s.blen.toNat ≤ s.params.bbufSize)
    (hd : s.bpc = 1#32) (hs : s.clen.toNat = s.width.toNat * s.height.toNat * 3)
    (hfit : s.blen.toNat ≤ s.width.toNat * s.height.toNat * 3) :
    exec .embed s = .next (s.complete (.ok ⟨.obuf (embedBits s.pixels s.bits), s.blen.toNat, false⟩)) := by
  rw [exec, execEmbed, embedResult, if_neg (not_clenTooLarge_or_blenTooLarge hc hb), s.capacity_supported hd]
  simp only [if_neg (not_shapeDiffers hs), if_neg hfit.not_gt]

/-! EXTHDR (R220). -/

theorem not_clenTooLarge (hc : s.clen.toNat ≤ s.params.cbufSize) : ¬ s.clenTooLarge = true := by
  rw [s.clenTooLarge_iff]
  omega

theorem exec_exthdr_outOfRange (h : s.params.cbufSize < s.clen.toNat) :
    exec .exthdr s = .next (s.complete (.error .operandOutOfRange)) := by
  rw [exec, execExthdr, exthdrResult, if_pos (s.clenTooLarge_iff.mpr h)]

theorem exec_exthdr_unsupportedDepth (hc : s.clen.toNat ≤ s.params.cbufSize) (hd : s.bpc ≠ 1#32) :
    exec .exthdr s = .next (s.complete (.error .unsupportedDepth)) := by
  rw [exec, execExthdr, exthdrResult, if_neg (not_clenTooLarge hc), s.capacity_unsupported hd]

theorem exec_exthdr_shapeMismatch (hc : s.clen.toNat ≤ s.params.cbufSize) (hd : s.bpc = 1#32)
    (hs : s.clen.toNat ≠ s.width.toNat * s.height.toNat * 3) :
    exec .exthdr s = .next (s.complete (.error .shapeMismatch)) := by
  rw [exec, execExthdr, exthdrResult, if_neg (not_clenTooLarge hc), s.capacity_supported hd]
  simp only [if_pos (s.shapeDiffers_iff.mpr hs)]

theorem exec_exthdr_truncatedHeader (hc : s.clen.toNat ≤ s.params.cbufSize) (hd : s.bpc = 1#32)
    (hs : s.clen.toNat = s.width.toNat * s.height.toNat * 3) (h32 : s.clen.toNat < 32) :
    exec .exthdr s = .next (s.complete (.error .truncatedHeader)) := by
  rw [exec, execExthdr, exthdrResult, if_neg (not_clenTooLarge hc), s.capacity_supported hd]
  simp only [if_neg (not_shapeDiffers hs), s.extractHeader_short h32]

theorem exec_exthdr_ok (hc : s.clen.toNat ≤ s.params.cbufSize) (hd : s.bpc = 1#32)
    (hs : s.clen.toNat = s.width.toNat * s.height.toNat * 3) (h32 : 32 ≤ s.clen.toNat) :
    exec .exthdr s = .next (s.complete (.ok ⟨.none, headerValue s.lowBit, false⟩)) := by
  rw [exec, execExthdr, exthdrResult, if_neg (not_clenTooLarge hc), s.capacity_supported hd]
  simp only [if_neg (not_shapeDiffers hs), s.extractHeader_ok h32]

/-! EXTMSG (R221, R223). -/

theorem exec_extmsg_outOfRange (h : s.params.cbufSize < s.clen.toNat) :
    exec .extmsg s = .next (s.complete (.error .operandOutOfRange)) := by
  rw [exec, execExtmsg, extmsgResult, if_pos (s.clenTooLarge_iff.mpr h)]

theorem exec_extmsg_unsupportedDepth (hc : s.clen.toNat ≤ s.params.cbufSize) (hd : s.bpc ≠ 1#32) :
    exec .extmsg s = .next (s.complete (.error .unsupportedDepth)) := by
  rw [exec, execExtmsg, extmsgResult, if_neg (not_clenTooLarge hc), s.capacity_unsupported hd]

theorem exec_extmsg_shapeMismatch (hc : s.clen.toNat ≤ s.params.cbufSize) (hd : s.bpc = 1#32)
    (hs : s.clen.toNat ≠ s.width.toNat * s.height.toNat * 3) :
    exec .extmsg s = .next (s.complete (.error .shapeMismatch)) := by
  rw [exec, execExtmsg, extmsgResult, if_neg (not_clenTooLarge hc), s.capacity_supported hd]
  simp only [if_pos (s.shapeDiffers_iff.mpr hs)]

theorem exec_extmsg_truncatedHeader (hc : s.clen.toNat ≤ s.params.cbufSize) (hd : s.bpc = 1#32)
    (hs : s.clen.toNat = s.width.toNat * s.height.toNat * 3) (h32 : s.clen.toNat < 32) :
    exec .extmsg s = .next (s.complete (.error .truncatedHeader)) := by
  rw [exec, execExtmsg, extmsgResult, if_neg (not_clenTooLarge hc), s.capacity_supported hd]
  simp only [if_neg (not_shapeDiffers hs), extractMessage, s.extractHeader_short h32]

theorem exec_extmsg_requestExceedsCapacity (hc : s.clen.toNat ≤ s.params.cbufSize) (hd : s.bpc = 1#32)
    (hs : s.clen.toNat = s.width.toNat * s.height.toNat * 3) (h32 : 32 ≤ s.clen.toNat)
    (hL : s.width.toNat * s.height.toNat * 3 < 32 + 8 * headerValue s.lowBit) :
    exec .extmsg s = .next (s.complete (.error .requestExceedsCapacity)) := by
  have hbig : s.width.toNat * s.height.toNat * 3 < frameBits (headerValue s.lowBit) := hL
  rw [exec, execExtmsg, extmsgResult, if_neg (not_clenTooLarge hc), s.capacity_supported hd]
  simp only [if_neg (not_shapeDiffers hs), extractMessage, s.extractHeader_ok h32, if_pos hbig]

/-- The second scan reads the header that the first one read, from exactly the bits it asks for, so its checks pass (R224). -/
theorem extractMessage_ok {c : Nat} (hC : 32 + 8 * headerValue s.lowBit ≤ c)
    (hL : 32 + 8 * headerValue s.lowBit ≤ s.clen.toNat) :
    ∃ payload, extractMessage s.pixels c = .ok payload ∧ payload.length = headerValue s.lowBit ∧
      ∀ k (hk : k < payload.length), ∀ j < 8, payload[k].getLsbD (7 - j) = s.lowBit (32 + 8 * k + j) := by
  have hlen : (lsbs s.pixels (32 + 8 * headerValue s.lowBit)).length = 32 + 8 * headerValue s.lowBit := by
    rw [lsbs_length, s.pixels_length, min_eq_left hL]
  obtain ⟨payload, hparse, hpayload⟩ :=
    parseFrame_payload (fun i hi => s.lsbs_pixels _ i (hi.trans_eq hlen) hL) hlen.ge
  have hfits : ¬ c < frameBits (headerValue s.lowBit) := hC.not_gt
  refine ⟨payload, ?_, hpayload⟩
  simp only [extractMessage, s.extractHeader_ok (by omega), if_neg hfits]
  rw [frameBits, Config.hdrBits, hparse]

theorem exec_extmsg_ok (hc : s.clen.toNat ≤ s.params.cbufSize) (hd : s.bpc = 1#32)
    (hs : s.clen.toNat = s.width.toNat * s.height.toNat * 3)
    (hL : 32 + 8 * headerValue s.lowBit ≤ s.width.toNat * s.height.toNat * 3) :
    ∃ payload, exec .extmsg s = .next (s.complete (.ok ⟨.obuf payload, payload.length, false⟩)) ∧
      payload.length = headerValue s.lowBit ∧
      ∀ k (hk : k < payload.length), ∀ j < 8, payload[k].getLsbD (7 - j) = s.lowBit (32 + 8 * k + j) := by
  obtain ⟨payload, hextract, hpayload⟩ := extractMessage_ok hL (hL.trans_eq hs.symm)
  refine ⟨payload, ?_, hpayload⟩
  rw [exec, execExtmsg, extmsgResult, if_neg (not_clenTooLarge hc), s.capacity_supported hd]
  simp only [if_neg (not_shapeDiffers hs), hextract]

end Sys2Proof.Machine
end

section
/-! SUPPORT. The error code of every command, from its outcome in each case of its checks (R240, R243), and what a code says of the
state. -/

namespace Sys2Proof.Machine

theorem State.bpc_toNat_ne_one_iff (s : State) : s.bpc.toNat ≠ 1 ↔ s.bpc ≠ 1#32 := by
  rw [ne_eq, ne_eq, BitVec.toNat_eq]
  rfl

/-- A command completes with an outcome whose code is the expected one. -/
theorem exec_completes_with_expectedCode (i : Instr) (s : State) :
    ∃ r, exec i s = .next (s.complete r) ∧ (s.complete r).errcode.toNat = s.expectedCode i := by
  cases i with
  | unpack =>
    simp only [State.expectedCode]
    split_ifs with hi
    · exact ⟨_, exec_unpack_outOfRange hi, rfl⟩
    · exact ⟨_, exec_unpack_ok (not_lt.mp hi), rfl⟩
  | pack =>
    simp only [State.expectedCode]
    split_ifs with hb h8
    · exact ⟨_, exec_pack_outOfRange hb, rfl⟩
    · exact ⟨_, exec_pack_invalidLength (not_lt.mp hb) h8, rfl⟩
    · exact ⟨_, exec_pack_ok (not_lt.mp hb) (not_not.mp h8), rfl⟩
  | capacity =>
    simp only [State.expectedCode, s.bpc_toNat_ne_one_iff]
    split_ifs with hd
    · exact ⟨_, exec_capacity_unsupportedDepth hd, rfl⟩
    · exact ⟨_, exec_capacity_ok (not_not.mp hd), rfl⟩
  | frame =>
    simp only [State.expectedCode]
    split_ifs with hi
    · exact ⟨_, exec_frame_outOfRange hi, rfl⟩
    · exact ⟨_, exec_frame_ok (not_lt.mp hi), rfl⟩
  | parse =>
    simp only [State.expectedCode]
    split_ifs with hb h32 hL
    · exact ⟨_, exec_parse_outOfRange hb, rfl⟩
    · exact ⟨_, exec_parse_truncatedHeader (not_lt.mp hb) h32, rfl⟩
    · exact ⟨_, exec_parse_truncatedPayload (not_lt.mp hb) (not_lt.mp h32) hL, rfl⟩
    · obtain ⟨_, hexec, -⟩ := exec_parse_ok (not_lt.mp hb) (not_lt.mp hL)
      exact ⟨_, hexec, rfl⟩
  | arbitrate =>
    simp only [State.expectedCode]
    split_ifs with hi hbig
    · exact ⟨_, exec_arbitrate_outOfRange hi, rfl⟩
    · exact ⟨_, exec_arbitrate_payloadTooLarge (not_lt.mp hi) hbig, rfl⟩
    · exact ⟨_, exec_arbitrate_ok (not_lt.mp hi) (not_lt.mp hbig), rfl⟩
  | arbitrateF =>
    simp only [State.expectedCode]
    split_ifs with hi hf hmb
    · exact ⟨_, exec_arbitrateF_outOfRange hi, rfl⟩
    · exact ⟨_, exec_arbitrateF_fractionTooSmall (not_lt.mp hi) hf hmb, rfl⟩
    · exact ⟨_, exec_arbitrateF_ok (not_lt.mp hi) hf (not_lt.mp hmb), rfl⟩
    · exact ⟨_, exec_arbitrateF_invalidFraction (not_lt.mp hi) hf, rfl⟩
  | embed =>
    simp only [State.expectedCode, s.bpc_toNat_ne_one_iff]
    split_ifs with hr hd hs hbig
    · exact ⟨_, exec_embed_outOfRange hr, rfl⟩
    all_goals obtain ⟨hc, hb⟩ := not_or.mp hr
    · exact ⟨_, exec_embed_unsupportedDepth (not_lt.mp hc) (not_lt.mp hb) hd, rfl⟩
    · exact ⟨_, exec_embed_shapeMismatch (not_lt.mp hc) (not_lt.mp hb) (not_not.mp hd) hs, rfl⟩
    · exact ⟨_, exec_embed_messageExceedsCapacity (not_lt.mp hc) (not_lt.mp hb) (not_not.mp hd) (not_not.mp hs) hbig, rfl⟩
    · exact ⟨_, exec_embed_ok (not_lt.mp hc) (not_lt.mp hb) (not_not.mp hd) (not_not.mp hs) (not_lt.mp hbig), rfl⟩
  | exthdr =>
    simp only [State.expectedCode, s.bpc_toNat_ne_one_iff]
    split_ifs with hc hd hs h32
    · exact ⟨_, exec_exthdr_outOfRange hc, rfl⟩
    · exact ⟨_, exec_exthdr_unsupportedDepth (not_lt.mp hc) hd, rfl⟩
    · exact ⟨_, exec_exthdr_shapeMismatch (not_lt.mp hc) (not_not.mp hd) hs, rfl⟩
    · exact ⟨_, exec_exthdr_truncatedHeader (not_lt.mp hc) (not_not.mp hd) (not_not.mp hs) h32, rfl⟩
    · exact ⟨_, exec_exthdr_ok (not_lt.mp hc) (not_not.mp hd) (not_not.mp hs) (not_lt.mp h32), rfl⟩
  | extmsg =>
    simp only [State.expectedCode, s.bpc_toNat_ne_one_iff]
    split_ifs with hc hd hs h32 hL
    · exact ⟨_, exec_extmsg_outOfRange hc, rfl⟩
    · exact ⟨_, exec_extmsg_unsupportedDepth (not_lt.mp hc) hd, rfl⟩
    · exact ⟨_, exec_extmsg_shapeMismatch (not_lt.mp hc) (not_not.mp hd) hs, rfl⟩
    · exact ⟨_, exec_extmsg_truncatedHeader (not_lt.mp hc) (not_not.mp hd) (not_not.mp hs) h32, rfl⟩
    · exact ⟨_, exec_extmsg_requestExceedsCapacity (not_lt.mp hc) (not_not.mp hd) (not_not.mp hs) (not_lt.mp h32) hL, rfl⟩
    · obtain ⟨_, hexec, -⟩ := exec_extmsg_ok (not_lt.mp hc) (not_not.mp hd) (not_not.mp hs) (not_lt.mp hL)
      exact ⟨_, hexec, rfl⟩

/-- ERRCODE after a command is the code R243 expects. -/
theorem exec_errcode {i : Instr} {s t : State} (h : exec i s = .next t) : t.errcode.toNat = s.expectedCode i := by
  obtain ⟨r, hexec, hcode⟩ := exec_completes_with_expectedCode i s
  rw [h] at hexec
  rwa [Host.Outcome.next.inj hexec]

/-- At every completion ERR says whether ERRCODE is not 0 (R35, R241). -/
theorem State.complete_err_iff (s : State) (r : Result) :
    (s.complete r).err = true ↔ (s.complete r).errcode.toNat ≠ 0 := by
  have herr : (s.complete r).err = ((s.complete r).errcode != 0#4) := by cases r <;> rfl
  rw [herr, bne_iff_ne, ne_eq, BitVec.toNat_eq]
  rfl

/-- A command reports an error just when R243 expects one. -/
theorem exec_err_iff {i : Instr} {s t : State} (h : exec i s = .next t) : t.err = true ↔ s.expectedCode i ≠ 0 := by
  obtain ⟨r, hexec, hcode⟩ := exec_completes_with_expectedCode i s
  rw [h] at hexec
  rw [Host.Outcome.next.inj hexec, s.complete_err_iff, hcode]

/-- The codes the check order of R243 can name. -/
theorem State.expectedCode_range (s : State) (i : Instr) :
    s.expectedCode i ≠ 5 ∧ s.expectedCode i ≤ 13 ∧ (i = .frame → s.expectedCode i ≠ 3) ∧
      (i = .extmsg → s.expectedCode i ≠ 9) := by
  cases i <;> simp only [State.expectedCode] <;> split_ifs <;> decide

theorem exec_commandFrame {i : Instr} {s t : State} (h : exec i s = .next t) : s.CommandFrame t := by
  obtain ⟨r, hexec⟩ := exec_eq_complete i s
  rw [h] at hexec
  obtain rfl := Host.Outcome.next.inj hexec
  exact s.complete_frame r

/-- A command that ends without an error met every check of R243. -/
theorem expectedCode_eq_zero_of_not_err {i : Instr} {s t : State} (h : exec i s = .next t) (he : t.err = false) :
    s.expectedCode i = 0 := by
  by_contra hne
  exact absurd ((exec_err_iff h).mpr hne) (by rw [he]; decide)

theorem State.expectedCode_arbitrate_eq_zero {s : State} (h : s.expectedCode .arbitrate = 0) :
    s.ilen.toNat ≤ s.params.ibufSize ∧ 32 + 8 * s.ilen.toNat ≤ s.width.toNat * s.height.toNat * 3 := by
  simp only [State.expectedCode] at h
  split_ifs at h with hi hbig
  exact ⟨not_lt.mp hi, not_lt.mp hbig⟩

theorem State.expectedCode_arbitrateF_eq_zero {s : State} (h : s.expectedCode .arbitrateF = 0) :
    s.ilen.toNat ≤ s.params.ibufSize ∧ (0 < s.fracNum.toNat ∧ s.fracNum.toNat ≤ s.fracDen.toNat) ∧
      40 ≤ 8 * (s.width.toNat * s.height.toNat * 3 * s.fracNum.toNat / s.fracDen.toNat / 8) := by
  simp only [State.expectedCode] at h
  split_ifs at h with hi hf hmb
  exact ⟨not_lt.mp hi, hf, not_lt.mp hmb⟩

theorem State.expectedCode_embed_eq_six {s : State} (h : s.expectedCode .embed = 6) :
    s.width.toNat * s.height.toNat * 3 < s.blen.toNat := by
  simp only [State.expectedCode] at h
  split_ifs at h <;> omega

end Sys2Proof.Machine
end

section
/-! SUPPORT. The frame a successful ARBITRATE makes, against the capacity and the budget (R195). -/

namespace Sys2Proof.Machine

/-- R195 with F = 0. -/
theorem exec_arbitrate_budget {s t : State} (hp : s.params.Valid) (h : exec .arbitrate s = .next t) (he : t.err = false) :
    t.blen.toNat = 32 + 8 * t.result.toNat ∧ t.blen.toNat ≤ s.width.toNat * s.height.toNat * 3 := by
  obtain ⟨hi, hfit⟩ := State.expectedCode_arbitrate_eq_zero (expectedCode_eq_zero_of_not_err h he)
  have ht := Host.Outcome.next.inj (h.symm.trans (exec_arbitrate_ok hi hfit))
  obtain ⟨hblen, hresult, -⟩ := State.complete_frameWrites hp s.message_length hi ht
  exact ⟨by rw [hblen, hresult], hblen.trans_le hfit⟩

/-- R195 with F = 1. -/
theorem exec_arbitrateF_budget {s t : State} (hp : s.params.Valid) (h : exec .arbitrateF s = .next t) (he : t.err = false) :
    t.blen.toNat = 32 + 8 * t.result.toNat ∧
      t.blen.toNat ≤ 8 * (s.width.toNat * s.height.toNat * 3 * s.fracNum.toNat / s.fracDen.toNat / 8) ∧
      8 * (s.width.toNat * s.height.toNat * 3 * s.fracNum.toNat / s.fracDen.toNat / 8) ≤
        s.width.toNat * s.height.toNat * 3 := by
  obtain ⟨hi, hf, hmb⟩ := State.expectedCode_arbitrateF_eq_zero (expectedCode_eq_zero_of_not_err h he)
  have ht := Host.Outcome.next.inj (h.symm.trans (exec_arbitrateF_ok hi hf hmb))
  obtain ⟨hblen, hresult, -⟩ :=
    State.complete_frameWrites hp s.keptMessage_length (s.keptLength_le.trans hi) ht
  refine ⟨by rw [hblen, hresult], ?_, maxBits_le s.pixelCount _ _ hf.2⟩
  rw [hblen, s.keptLength_eq, ← s.maxBits_eq]
  exact keptBytes_fits _ (le_trans (by decide) hmb)

end Sys2Proof.Machine
end

section
/-! PROOFS. Rules over the outcomes of the commands: the codes never reported (R194, R240), and the budget of ARBITRATE (R195). -/

namespace Sys2Proof.Machine

/-- Settles O49: ERRCODE is the code the check order names, and it names none of these. -/
theorem unreachableErrors : Obligations.UnreachableErrors := by
  intro i s t h
  have hcode := exec_errcode h
  have hne : ∀ c : BitVec 4, s.expectedCode i ≠ c.toNat → t.errcode ≠ c := fun c hc he => hc (by rw [← hcode, he])
  obtain ⟨h5, h13, h3, h9⟩ := s.expectedCode_range i
  exact ⟨hne _ h5, hcode.trans_le h13, fun hi => hne _ (h3 hi), fun hi => hne _ (h9 hi)⟩

/-- Settles O50: the frame fits the capacity, with F = 1 through the budget, and no command writes WIDTH or HEIGHT, so EMBED checks
it against the same capacity. -/
theorem arbitrateRespectsBudget : Obligations.ArbitrateRespectsBudget := by
  intro s t hp
  have hcapacity : exec .arbitrate s = .next t ∨ exec .arbitrateF s = .next t → t.err = false →
      t.blen.toNat = 32 + 8 * t.result.toNat ∧ t.blen.toNat ≤ s.width.toNat * s.height.toNat * 3 := by
    rintro (h | h) he
    · exact exec_arbitrate_budget hp h he
    · obtain ⟨hlen, hbudget, hmax⟩ := exec_arbitrateF_budget hp h he
      exact ⟨hlen, hbudget.trans hmax⟩
  refine ⟨fun h he => (exec_arbitrate_budget hp h he).2, fun h he => (exec_arbitrateF_budget hp h he).2,
    fun h he => (hcapacity h he).1, fun h he _ u hu h6 => ?_⟩
  have hbig := State.expectedCode_embed_eq_six (s := t) (by rw [← exec_errcode hu, h6]; rfl)
  have hregs := (h.elim exec_commandFrame exec_commandFrame).registers
  rw [hregs.width, hregs.height] at hbig
  exact absurd (hcapacity h he).2 hbig.not_ge

end Sys2Proof.Machine
end

section
/-! SUPPORT. The bytes EMBED writes, by the cells of its operands (R211). -/

namespace Sys2Proof.Machine

theorem setLowBit_eq_ite (c : Byte) (b : Bit) : setLowBit c b = (c &&& 0xFE#8) ||| (if b then 1#8 else 0#8) := by
  cases b <;> rfl

theorem State.embedBits_operands_getElem (s : State) (i : Nat) (h : i < (embedBits s.pixels s.bits).length) :
    (embedBits s.pixels s.bits)[i] =
      if i < s.blen.toNat then setLowBit (s.cbufAt i) (s.bbufAt i) else s.cbufAt i := by
  have hi : i < s.pixels.length := by rwa [embedBits_length] at h
  have hbyte := embedBits_getElem s.pixels s.bits i hi
  rw [List.getElem?_eq_getElem h, s.pixels_getElem] at hbyte
  rw [Option.some.inj hbyte]
  split_ifs with hb
  · rw [s.bits_getElem?_of_lt (hb.trans_eq s.bits_length.symm)]
  · rw [List.getElem?_eq_none (s.bits_length.trans_le (not_lt.mp hb))]

end Sys2Proof.Machine
end

section
/-! PROOFS. EMBED (R210 to R212). -/

namespace Sys2Proof.Machine

/-- Settles O41: OBUF takes the embedding of the bit operand in the cover, as long as the cover; the four failures are the four
checks of the rule, in order. -/
theorem embedReplacesLowBits : Obligations.EmbedReplacesLowBits := by
  refine ⟨rfl, fun s hc hb hd hs hfit => ?_, fun s hr => exec_fails (exec_embed_outOfRange hr),
    fun s hc hb hd => exec_fails (exec_embed_unsupportedDepth hc hb hd),
    fun s hc hb hd hs => exec_fails (exec_embed_shapeMismatch hc hb hd hs),
    fun s hc hb hd hs hbig => exec_fails (exec_embed_messageExceedsCapacity hc hb hd hs hbig)⟩
  have hlt := s.blen.isLt
  have hlen : (embedBits s.pixels s.bits).length = s.clen.toNat := by rw [embedBits_length, s.pixels_length]
  obtain ⟨holen, hbytes, hrest, hbits⟩ := s.complete_ok_obuf (embedBits s.pixels s.bits) s.blen.toNat false
  rw [hlen] at holen hrest
  refine ⟨_, exec_embed_ok hc hb hd hs hfit, s.complete_ok_succeeded _, s.complete_frame _, hbits,
    ?_, ?_, fun i hi => ?_, hrest⟩
  · rw [holen, BitVec.ofNat_toNat, BitVec.setWidth_eq]
  · rw [s.complete_ok_result, BitVec.toNat_ofNat, Nat.mod_eq_of_lt (by dsimp only; omega)]
  · rw [hbytes i (hi.trans_eq hlen.symm), s.embedBits_operands_getElem, setLowBit_eq_ite]

end Sys2Proof.Machine
end

section
/-! SUPPORT. The low bits of a stego image: those that EMBED leaves in OBUF, and what EMBED of a frame therefore puts there (R170,
R211, R226). -/

namespace Sys2Proof.Machine

theorem State.SameOperandRegisters.trans {s t u : State} (h : s.SameOperandRegisters t) (h' : t.SameOperandRegisters u) :
    s.SameOperandRegisters u :=
  ⟨h'.width.trans h.width, h'.height.trans h.height, h'.bpc.trans h.bpc, h'.fracNum.trans h.fracNum,
    h'.fracDen.trans h.fracDen, h'.ilen.trans h.ilen, h'.clen.trans h.clen⟩

/-- The low bits of the first BLEN bytes EMBED writes are the bit operand (R211). -/
theorem exec_embed_lowBits {s : State} (hc : s.clen.toNat ≤ s.params.cbufSize) (hb : s.blen.toNat ≤ s.params.bbufSize)
    (hd : s.bpc = 1#32) (hs : s.clen.toNat = s.width.toNat * s.height.toNat * 3)
    (hfit : s.blen.toNat ≤ s.width.toNat * s.height.toNat * 3) :
    ∃ t, exec .embed s = .next t ∧ t.Succeeded false ∧ s.CommandFrame t ∧
      ∀ i < s.blen.toNat, (t.obufAt i).getLsbD 0 = s.bbufAt i := by
  obtain ⟨-, embedOk, -⟩ := embedReplacesLowBits
  obtain ⟨t, ht, hok, hframe, -, -, -, hbytes, -⟩ := embedOk s hc hb hd hs hfit
  refine ⟨t, ht, hok, hframe, fun i hi => ?_⟩
  rw [hbytes i (by omega), if_pos hi, ← setLowBit_eq_ite]
  exact setLowBit_getLsbD _ _ 0

/-- FRAME, then EMBED of the frame: the low bits of the stego image in OBUF are the frame's header and payload. -/
theorem exec_frame_embed_ok {s : State} (hp : s.params.Valid) (hi : s.ilen.toNat ≤ s.params.ibufSize) (hd : s.bpc = 1#32)
    (hs : s.clen.toNat = s.width.toNat * s.height.toNat * 3) (hc : s.clen.toNat ≤ s.params.cbufSize)
    (hfit : 32 + 8 * s.ilen.toNat ≤ s.width.toNat * s.height.toNat * 3) :
    ∃ a b, exec .frame s = .next a ∧ exec .embed a = .next b ∧ b.Succeeded false ∧ s.SameOperandRegisters b ∧
      b.params = s.params ∧ (∀ i < 32, (b.obufAt i).getLsbD 0 = s.ilen.getLsbD (31 - i)) ∧
      ∀ k < s.ilen.toNat, ∀ j < 8, (b.obufAt (32 + 8 * k + j)).getLsbD 0 = (s.ibufAt k).getLsbD (7 - j) := by
  obtain ⟨-, frameOk, -⟩ := frameWritesFrame
  obtain ⟨a, ha, -, ⟨hregs, hsur, -⟩, -, hblen, -, hheader, hpayload, -⟩ := frameOk s hp hi
  have hbits : a.blen.toNat ≤ a.params.bbufSize := by
    obtain ⟨-, hsize, -⟩ := hp
    rw [hblen, hsur.params]
    omega
  obtain ⟨b, hb, hok, ⟨hregs', hsur', -⟩, hlow⟩ :=
    exec_embed_lowBits (s := a) (by rwa [hregs.clen, hsur.params]) hbits (hregs.bpc.trans hd)
      (by rw [hregs.clen, hregs.width, hregs.height, hs]) (by rw [hblen, hregs.width, hregs.height]; exact hfit)
  refine ⟨a, b, ha, hb, hok, hregs.trans hregs', hsur'.params.trans hsur.params, fun i hi => ?_, fun k hk j hj => ?_⟩
  · rw [hlow i (by omega), hheader i hi]
  · rw [hlow _ (by omega), hpayload k hk j hj]

end Sys2Proof.Machine
end

section
/-! PROOFS. The extraction engine: EXTHDR, EXTMSG and the round trip (R220 to R226). -/

namespace Sys2Proof.Machine

/-- Settles O42: EXTHDR has no destination, and a header is below 2^32, so the 64-bit RESULT holds it; the four failures are the
four checks of the rule, in order. -/
theorem exthdrReadsLength : Obligations.ExthdrReadsLength := by
  refine ⟨rfl, fun s hc hd hs h32 => ?_, fun s hc => exec_fails (exec_exthdr_outOfRange hc),
    fun s hc hd => exec_fails (exec_exthdr_unsupportedDepth hc hd),
    fun s hc hd hs => exec_fails (exec_exthdr_shapeMismatch hc hd hs),
    fun s hc hd hs h32 => exec_fails (exec_exthdr_truncatedHeader hc hd hs h32)⟩
  have hlt := headerValue_lt s.lowBit
  obtain ⟨hbits, hout⟩ := s.complete_ok_none (headerValue s.lowBit) false
  refine ⟨_, exec_exthdr_ok hc hd hs h32, s.complete_ok_succeeded _, s.complete_frame _, hbits, hout, ?_⟩
  rw [s.complete_ok_result, BitVec.toNat_ofNat, Nat.mod_eq_of_lt (by dsimp only; omega)]

/-- Settles O43: OBUF takes the payload of the second scan, whose length is the header's value and so below 2^32; the five
failures are the five checks of the rule, in order. -/
theorem extmsgReadsMessage : Obligations.ExtmsgReadsMessage := by
  refine ⟨rfl, fun s hc hd hs hL => ?_, fun s hc => exec_fails (exec_extmsg_outOfRange hc),
    fun s hc hd => exec_fails (exec_extmsg_unsupportedDepth hc hd),
    fun s hc hd hs => exec_fails (exec_extmsg_shapeMismatch hc hd hs),
    fun s hc hd hs h32 => exec_fails (exec_extmsg_truncatedHeader hc hd hs h32),
    fun s hc hd hs h32 hL => exec_fails (exec_extmsg_requestExceedsCapacity hc hd hs h32 hL)⟩
  have hlt := headerValue_lt s.lowBit
  obtain ⟨payload, hexec, hlen, hpayload⟩ := exec_extmsg_ok hc hd hs hL
  obtain ⟨holen, hbytes, hrest, hbits⟩ := s.complete_ok_obuf payload payload.length false
  refine ⟨_, hexec, s.complete_ok_succeeded _, s.complete_frame _, hbits, ?_, ?_, fun k hk j hj => ?_,
    fun i hi => hrest i (hlen.trans_le hi)⟩
  · rw [holen, hlen, BitVec.toNat_ofNat, Nat.mod_eq_of_lt hlt]
  · rw [s.complete_ok_result, hlen, BitVec.toNat_ofNat, Nat.mod_eq_of_lt (by dsimp only; omega)]
  · rw [hbytes k (hk.trans_eq hlen.symm), hpayload k (hk.trans_eq hlen.symm) j hj]

/-- Settles O54: the copy puts the stego image where EXTMSG reads, so the header it finds is ILEN, its request fits, and each bit
of a byte comes back to its place. -/
theorem embedExtractRoundTrip : Obligations.EmbedExtractRoundTrip := by
  intro s hp hi hd hs hc hfit
  obtain ⟨-, extractOk, -⟩ := extmsgReadsMessage
  obtain ⟨a, b, ha, hb, hok, hregs, hparams, hheader, hpayload⟩ := exec_frame_embed_ok hp hi hd hs hc hfit
  refine ⟨a, b, ha, hb, hok, fun c hcregs hcparams hcopy => ?_⟩
  have hlow : ∀ i < s.clen.toNat, c.lowBit i = (b.obufAt i).getLsbD 0 := fun i hi => by rw [State.lowBit, hcopy i hi]
  have hL : headerValue c.lowBit = s.ilen.toNat :=
    headerValue_eq_of_testBit s.ilen.isLt fun i hi => (hlow i (by omega)).trans (hheader i hi)
  have hsc : s.SameOperandRegisters c := hregs.trans hcregs
  obtain ⟨d, hexec, hsucc, -, -, holen, hresult, hbytes, -⟩ :=
    extractOk c (by rwa [hsc.clen, hcparams, hparams]) (hsc.bpc.trans hd) (by rw [hsc.clen, hsc.width, hsc.height, hs])
      (by rw [hL, hsc.width, hsc.height]; exact hfit)
  rw [hL] at holen hresult hbytes
  refine ⟨d, hexec, hsucc, BitVec.eq_of_toNat_eq holen, hresult, fun k hk => byte_eq_of_msbFirst fun j hj => ?_⟩
  calc (d.obufAt k).getLsbD (7 - j) = c.lowBit (32 + 8 * k + j) := hbytes k hk j hj
    _ = (b.obufAt (32 + 8 * k + j)).getLsbD 0 := hlow _ (by omega)
    _ = (s.ibufAt k).getLsbD (7 - j) := hpayload k hk j hj

end Sys2Proof.Machine
end

section
/-! SUPPORT. HERR under a host transaction: which accesses are the errors of R245, which transactions clear it (R246), and what every
other one does to it. -/

namespace Sys2Proof.Machine

/-! Where an access goes: one rule for each kind of address (R81). -/

theorem word_eq_ofNat {a : Word} {n : Nat} (h : a.toNat = n) : a = BitVec.ofNat 32 n := by
  rw [← h, BitVec.ofNat_toNat, BitVec.setWidth_eq]

/-- An access is bad, or goes to a register with size 4, or to a cell with size 1. -/
theorem access_cases {p : Config.Params} (hp : p.Valid) (a : Word) (size : Size) :
    BadAccess p a size ∨ (∃ r : Register, a = BitVec.ofNat 32 r.offset ∧ size = .four) ∨
      ∃ (b : Buffer) (i : Nat), i < b.size p ∧ a = BitVec.ofNat 32 (b.base + i) ∧ size = .one := by
  cases ht : target p a size with
  | none => exact .inl ((target_eq_none_iff hp a size).mp ht)
  | some x =>
    cases x with
    | reg r =>
      obtain ⟨hsize, ha⟩ := target_eq_reg ht
      exact .inr (.inl ⟨r, word_eq_ofNat ha, hsize⟩)
    | cell b i =>
      obtain ⟨hsize, hi, ha⟩ := target_eq_cell ht
      exact .inr (.inr ⟨b, i, hi, word_eq_ofNat ha, hsize⟩)

theorem not_badAccess_register {p : Config.Params} (hp : p.Valid) (r : Register) :
    ¬ BadAccess p (BitVec.ofNat 32 r.offset) .four := by
  rw [← target_eq_none_iff hp, target_register]
  exact Option.some_ne_none _

theorem not_badAccess_cell {p : Config.Params} (hp : p.Valid) (b : Buffer) {i : Nat} (h : i < b.size p) :
    ¬ BadAccess p (BitVec.ofNat 32 (b.base + i)) .one := by
  rw [← target_eq_none_iff hp, target_cell hp b h]
  exact Option.some_ne_none _

/-- Among the registers, the addresses R245 (d) forbids to write are those of the read-only ones (R32). -/
theorem readOnlyAddress_register_iff (p : Config.Params) (r : Register) :
    ReadOnlyAddress p (BitVec.ofNat 32 r.offset).toNat ↔ r.writable = false := by
  have hnot : ¬ MappedCell p .obuf (BitVec.ofNat 32 r.offset).toNat := by
    rintro ⟨hlo, -⟩
    revert hlo
    cases r <;> decide
  rw [ReadOnlyAddress, or_iff_left hnot]
  cases r <;> decide

/-- A cell's address is in the window of its own buffer alone (R81). -/
theorem mappedCell_iff_eq {p : Config.Params} (hp : p.Valid) {b c : Buffer} {i : Nat} (h : i < b.size p) :
    MappedCell p c (BitVec.ofNat 32 (b.base + i)).toNat ↔ b = c := by
  constructor
  · intro hc
    obtain ⟨j, hj, ha⟩ := mappedCell_eq hc
    have hb := target_cell hp b h
    rw [word_eq_ofNat ha, target_cell hp c hj] at hb
    cases hb
    rfl
  · rintro rfl
    exact mappedCell_of_lt hp b h

/-- The windows lie above the register region (R81). -/
theorem cell_address_ge {p : Config.Params} (hp : p.Valid) (b : Buffer) {i : Nat} (h : i < b.size p) :
    0x10000000 ≤ (BitVec.ofNat 32 (b.base + i)).toNat := by
  have hbase : 0x10000000 ≤ b.base := by cases b <;> decide
  exact hbase.trans (mappedCell_of_lt hp b h).1

/-- Among the cells, they are those of OBUF (R52). -/
theorem readOnlyAddress_cell_iff {p : Config.Params} (hp : p.Valid) (b : Buffer) {i : Nat} (h : i < b.size p) :
    ReadOnlyAddress p (BitVec.ofNat 32 (b.base + i)).toNat ↔ b.writable = false := by
  have hge := cell_address_ge hp b h
  have hregion : ∀ n ∈ [0x00, 0x2C, 0x30, 0x34, 0x38, 0x3C, 0x40, 0x44], n < 0x48 := by decide
  have hnot : (BitVec.ofNat 32 (b.base + i)).toNat ∉ [0x00, 0x2C, 0x30, 0x34, 0x38, 0x3C, 0x40, 0x44] :=
    fun hmem => absurd (hregion _ hmem) (by omega)
  rw [ReadOnlyAddress, or_iff_right hnot, mappedCell_iff_eq hp h]
  cases b <;> decide

/-! The errors of R245 by what a write reaches. -/

theorem State.hostAccessError_write_register_iff {s : State} (hp : s.params.Valid) (r : Register) (v : Word) :
    s.HostAccessError (.write (BitVec.ofNat 32 r.offset) .four v) ↔
      r.writable = false ∨ (s.busy = true ∧ r ≠ .status) := by
  have hstatus : (BitVec.ofNat 32 r.offset).toNat ≠ 0x08 ↔ r ≠ .status := by cases r <;> decide
  rw [State.HostAccessError, or_iff_right (not_badAccess_register hp r), readOnlyAddress_register_iff, hstatus]

theorem State.hostAccessError_write_cell_iff {s : State} (hp : s.params.Valid) (b : Buffer) {i : Nat}
    (h : i < b.size s.params) (v : Word) :
    s.HostAccessError (.write (BitVec.ofNat 32 (b.base + i)) .one v) ↔ b.writable = false ∨ s.busy = true := by
  have hge := cell_address_ge hp b h
  have hstatus : (BitVec.ofNat 32 (b.base + i)).toNat ≠ 0x08 := by omega
  rw [State.HostAccessError, or_iff_right (not_badAccess_cell hp b h), readOnlyAddress_cell_iff hp b h,
    and_iff_left hstatus]

/-- An error that is a read returns 0 and sets HERR (R245). -/
theorem State.transact_read_of_error {s : State} {a : Word} {size : Size} (hp : s.params.Valid)
    (h : s.HostAccessError (.read a size)) : s.transact (.read a size) = s.raiseHerr.reply 0#32 :=
  State.transact_read_of_badAccess hp h

/-- An error that is a write is ignored and sets HERR (R245). -/
theorem State.transact_write_of_error {s : State} {a : Word} {size : Size} {v : Word} (hp : s.params.Valid)
    (h : s.HostAccessError (.write a size v)) : s.transact (.write a size v) = s.raiseHerr := by
  rcases access_cases hp a size with hbad | ⟨r, rfl, rfl⟩ | ⟨b, i, hi, rfl, rfl⟩
  · exact State.transact_write_of_badAccess hp hbad v
  · rcases (State.hostAccessError_write_register_iff hp r v).mp h with hro | ⟨hb, hr⟩
    · exact s.transact_write_readOnly hro v
    · exact State.transact_write_busy hb hr v
  · have hrefused : ¬ (b.writable && !s.busy) = true := by
      rcases (State.hostAccessError_write_cell_iff hp b hi v).mp h with hro | hb
      · simp [hro]
      · simp [hb]
    rw [State.transact_write_cell hp b hi, State.writeCellAccess, if_neg hrefused]

theorem State.transact_herr_of_error {s : State} {x : Transaction} (hp : s.params.Valid) (h : s.HostAccessError x) :
    (s.transact x).herr = true := by
  cases x with
  | read a size => rw [State.transact_read_of_error hp h]; rfl
  | write a size v => rw [State.transact_write_of_error hp h]; rfl
  | reset => exact h.elim

/-! HERR after a transaction that is no error. -/

theorem State.writeRegister_herr (s : State) {r : Register} (hr : r ≠ .status) (v : Word) :
    (s.writeRegister r v).herr = s.herr := by
  cases r with
  | status => exact absurd rfl hr
  | _ => rfl

theorem State.writeCell_herr (s : State) (b : Buffer) (i : Nat) (v : Byte) : (s.writeCell b i v).herr = s.herr := by
  cases b <;> rfl

/-- A transaction that is no error leaves HERR 0 if it was 0. -/
theorem State.herr_of_transact_herr {s : State} {x : Transaction} (hp : s.params.Valid) (hx : ¬ s.HostAccessError x)
    (h : (s.transact x).herr = true) : s.herr = true := by
  cases x with
  | read a size =>
    rcases s.hostRead_cases a size with ⟨hnone, -⟩ | ⟨-, v, he⟩ | ⟨v, he⟩
    · exact absurd ((target_eq_none_iff hp a size).mp hnone) hx
    all_goals rwa [State.transact, he] at h
  | write a size v =>
    rcases access_cases hp a size with hbad | ⟨r, rfl, rfl⟩ | ⟨b, i, hi, rfl, rfl⟩
    · exact absurd (.inl hbad) hx
    · rw [State.hostAccessError_write_register_iff hp, not_or, Bool.not_eq_false] at hx
      obtain ⟨hw, hidle⟩ := hx
      by_cases hr : r = .status
      · rw [hr, State.transact_write_status, State.writeStatus] at h
        split at h
        · cases h
        · exact h
      · have hb : s.busy = false := Bool.eq_false_of_not_eq_true fun hb => hidle ⟨hb, hr⟩
        rwa [State.transact_write_idle hb hr hw, State.writeRegister_herr s hr] at h
    · rw [State.hostAccessError_write_cell_iff hp b hi, not_or, Bool.not_eq_false, Bool.not_eq_true] at hx
      obtain ⟨hw, hb⟩ := hx
      rwa [State.transact_write_cell_idle hp hb hw hi, State.writeCell_herr] at h
  | reset => cases h

/-- The transactions that clear HERR: a STATUS write with bit 8 set, and a reset (R36, R246). -/
def Transaction.ClearsHerr (x : Transaction) : Prop :=
  (∃ v : Word, x = .write 0x08#32 .four v ∧ v.getLsbD 8 = true) ∨ x = .reset

theorem Transaction.not_clearsHerr_iff (x : Transaction) :
    ¬ x.ClearsHerr ↔ x ≠ .reset ∧ ∀ v, x = .write 0x08#32 .four v → v.getLsbD 8 = false := by
  simp only [Transaction.ClearsHerr, not_or, not_exists, not_and, Bool.not_eq_true, ne_eq]
  exact and_comm

theorem State.transact_herr_of_clearsHerr (s : State) {x : Transaction} (h : x.ClearsHerr) :
    (s.transact x).herr = false := by
  rcases h with ⟨v, rfl, hv⟩ | rfl
  · have hw : s.transact (.write 0x08#32 .four v) = s.writeStatus v := s.transact_write_status v
    rw [hw, State.writeStatus, if_pos hv]
    rfl
  · rfl

theorem State.hostRead_keeps_herr {s : State} (hs : s.herr = true) (a : Word) (size : Size) :
    (s.hostRead a size).herr = true := by
  rcases s.hostRead_cases a size with ⟨-, he⟩ | ⟨-, v, he⟩ | ⟨v, he⟩ <;> rw [he]
  exacts [rfl, hs, hs]

theorem State.transact_keeps_herr {s : State} (hs : s.herr = true) {x : Transaction} (hx : ¬ x.ClearsHerr) :
    (s.transact x).herr = true := by
  cases x with
  | read a size => exact State.hostRead_keeps_herr hs a size
  | write a size v =>
    rw [State.transact]
    rcases s.hostWrite_cases a size v with he | ⟨ht, he⟩ | ⟨r, -, -, hr, -, he⟩ | ⟨b, i, -, -, -, he⟩ <;> rw [he]
    · rfl
    · obtain ⟨rfl, ha⟩ := target_eq_reg ht
      have hv : ¬ v.getLsbD 8 = true := fun hv => hx (.inl ⟨v, by rw [word_eq_ofNat ha]; rfl, hv⟩)
      rwa [State.writeStatus, if_neg hv]
    · rwa [s.writeRegister_herr hr]
    · rwa [s.writeCell_herr]
  | reset => exact absurd (.inr rfl) hx

/-! HERR over a step, and through a command. -/

theorem completeLatched_herr {s t : State} (h : completeLatched s = .next t) : t.herr = s.herr := by
  obtain ⟨r, hr⟩ := completeLatched_eq_complete s
  obtain rfl := Host.Outcome.next.inj (hr.symm.trans h)
  exact (s.complete_frame r).surroundings.herr

/-- The host's next operation keeps HERR = 1 unless it is one of the clearing transactions: `wait` reads, and a write-back has
size 1 (R120). -/
theorem State.hostStep_keeps_herr {s : State} (hs : s.herr = true)
    (hx : ∀ x rest, s.host = .txn x :: rest → ¬ x.ClearsHerr) : s.hostStep.herr = true := by
  rw [State.hostStep]
  split
  · exact hs
  · next op rest hhost =>
    cases op with
    | txn x => exact State.transact_keeps_herr hs (hx x rest hhost)
    | wait => exact State.hostRead_keeps_herr hs statusAddr .four
    | writeBack a =>
      have hkept : ¬ (Transaction.write a .one s.lastReply).ClearsHerr := by
        rintro (⟨v, hv, -⟩ | hreset)
        · cases hv
        · cases hreset
      exact State.transact_keeps_herr hs hkept

theorem step_keeps_herr {s t : State} (h : step s = .next t) (hs : s.herr = true)
    (hx : ∀ x rest, s.host = .txn x :: rest → ¬ x.ClearsHerr) : t.herr = true := by
  rcases step_cases h with ⟨-, -, hc⟩ | ⟨k, -, -, rfl⟩ | ⟨-, rfl⟩
  · rw [completeLatched_herr hc, hs]
  · exact State.hostStep_keeps_herr (s := { s with wait := k }) hs hx
  · exact State.hostStep_keeps_herr hs hx

/-- Each command completes with the outcome of a rule that does not look at HERR (R246). -/
theorem exec_rule_ignores_herr (i : Instr) :
    ∃ rule : State → Result, (∀ s, exec i s = .next (s.complete (rule s))) ∧
      ∀ s h, rule { s with herr := h } = rule s := by
  cases i <;> exact ⟨_, fun _ => rfl, fun _ _ => rfl⟩

/-- A completion carries HERR along. -/
theorem State.complete_withHerr (s : State) (r : Result) (h : Bit) :
    State.complete { s with herr := h } r = { s.complete r with herr := h } := by
  cases r with
  | error e => rfl
  | ok w =>
    obtain ⟨dest, result, cut⟩ := w
    cases dest <;> rfl

end Sys2Proof.Machine
end

section
/-! PROOFS. Host-access errors and HERR (R245, R246), and how a command reports an error (R242, R243). -/

namespace Sys2Proof.Machine

/-- Settles O29: an error raises HERR and does nothing else, a transaction that is no error keeps a 0, and only a clearing one turns
a 1 into a 0. -/
theorem herrSetByAccessErrorsOnly : Obligations.HerrSetByAccessErrorsOnly := by
  refine ⟨fun s x hp => ?_, fun s a size hp h => State.transact_read_of_error hp h,
    fun s a size v hp h => State.transact_write_of_error hp h, fun s t h => completeLatched_herr h⟩
  rw [← x.not_clearsHerr_iff]
  constructor
  · intro h
    by_cases hx : s.HostAccessError x
    · exact .inl hx
    · have hkept : ¬ x.ClearsHerr := fun hc => by rw [s.transact_herr_of_clearsHerr hc] at h; cases h
      exact .inr ⟨State.herr_of_transact_herr hp hx h, hkept⟩
  · rintro (hx | ⟨hs, hkept⟩)
    · exact State.transact_herr_of_error hp hx
    · exact State.transact_keeps_herr hs hkept

/-- Settles O30: of the three kinds of step only a host operation can clear HERR, and then it is a clearing transaction; issue and
every command's rule do not look at it. -/
theorem herrSticky : Obligations.HerrSticky := by
  refine ⟨fun s t hs hstep ht => ?_, fun s v hv => s.transact_herr_of_clearsHerr (.inl ⟨v, rfl, hv⟩),
    fun s => s.transact_herr_of_clearsHerr (.inr rfl), fun s v hb hs => ?_, fun i s t h hexec => ?_⟩
  · have hop : ∃ x rest, s.host = .txn x :: rest ∧ x.ClearsHerr := by
      by_contra hnone
      have hkept := step_keeps_herr hstep hs fun x rest hhost hc => hnone ⟨x, rest, hhost, hc⟩
      exact absurd (hkept.symm.trans ht) (by decide)
    obtain ⟨x, rest, hhost, ⟨v, rfl, hv⟩ | rfl⟩ := hop
    · exact .inl ⟨v, rest, hhost, hv⟩
    · exact .inr ⟨rest, hhost⟩
  · have hw : s.transact (.write 0x04#32 .four v) = s.issue v :=
      State.transact_write_idle hb (r := .cmd) (by decide) rfl v
    rw [hw]
    exact ⟨rfl, rfl, hs⟩
  · obtain ⟨rule, hrule, hignores⟩ := exec_rule_ignores_herr i
    rw [hrule] at hexec
    rw [hrule, hignores, State.complete_withHerr, Host.Outcome.next.inj hexec]

/-- Settles O44: a command's code is the one the check order names, and an illegal word completes as IllegalCommand. -/
theorem errorPriority : Obligations.ErrorPriority := by
  refine ⟨fun i s t h => ⟨exec_errcode h, exec_err_iff h⟩, fun s t why hd h => ?_⟩
  rw [completeLatched, hd] at h
  obtain rfl := Host.Outcome.next.inj h
  have hfailed := s.complete_error_failed .illegalCommand
  exact ⟨hfailed.errcode, hfailed.err⟩

/-- Settles O45: a completion that ends with ERR = 1 had an error for its outcome, and that writes only STATUS and the latch. -/
theorem failedCommandWritesOnlyStatus : Obligations.FailedCommandWritesOnlyStatus := by
  intro s t h herr
  obtain ⟨r, hr⟩ := completeLatched_eq_complete s
  obtain rfl := Host.Outcome.next.inj (hr.symm.trans h)
  cases r with
  | error e => exact ⟨s.complete_error_frame e, rfl⟩
  | ok w => cases herr

end Sys2Proof.Machine
end

section
/-! SUPPORT. The fields of the legal words: a well-formed CMD32 is the fields of a command (R110, R114). -/

namespace Sys2Proof.Machine

/-- Every command's fields are legal. -/
theorem fields_wellFormed (i : Instr) : i.fields.wellFormed = true := by
  cases i <;> decide

/-- With the reserved fields clear, a legal OPC with F = 0 is one of nine commands, and F = 1 leaves ARBITRATE.F alone. -/
theorem exists_fields_of_wellFormed {c : Cmd32} (h : c.wellFormed = true) : ∃ i : Instr, i.fields = c := by
  obtain ⟨opc, rsv0, f, rsv1⟩ := c
  simp only [Cmd32.wellFormed, Cmd32.reservedClear, Cmd32.opcodeAssigned, Cmd32.fractionPlaced, Bool.and_eq_true,
    beq_iff_eq, decide_eq_true_eq, Bool.or_eq_true, Bool.not_eq_true'] at h
  obtain ⟨⟨⟨rfl, rfl⟩, hlo, hhi⟩, hf⟩ := h
  cases f with
  | true =>
    obtain rfl : opc = 6#4 := hf.resolve_left (by decide)
    exact ⟨.arbitrateF, rfl⟩
  | false =>
    have hopc : opc = BitVec.ofNat 4 opc.toNat := by rw [BitVec.ofNat_toNat, BitVec.setWidth_eq]
    rw [hopc]
    interval_cases opc.toNat
    exacts [⟨.unpack, rfl⟩, ⟨.pack, rfl⟩, ⟨.capacity, rfl⟩, ⟨.frame, rfl⟩, ⟨.parse, rfl⟩, ⟨.arbitrate, rfl⟩,
      ⟨.embed, rfl⟩, ⟨.exthdr, rfl⟩, ⟨.extmsg, rfl⟩]

end Sys2Proof.Machine
end

section
/-! PROOFS. Decoding and encoding (R110, R112). -/

namespace Sys2Proof.Machine

/-- Settles O6: legal fields are those of a command, whose word decodes to it, and no other word decodes to that command. -/
theorem decodeAndEncodeAgree : Obligations.DecodeAndEncodeAgree := by
  refine ⟨fun c => ⟨fun h => ?_, ?_⟩, fun i _ => decode_encode i, fun w i => (decode_eq_command_iff w i).mp⟩
  · obtain ⟨i, rfl⟩ := exists_fields_of_wellFormed h
    exact ⟨i, decode_encode i, rfl⟩
  · rintro ⟨i, -, rfl⟩
    exact fields_wellFormed i

end Sys2Proof.Machine
end

section
/-! SUPPORT. What a successful command writes, said once for all commands: its own destination, within the sizes, a result that
fits, and a cut only from ARBITRATE.F (R10, R46, R99, R190). -/

namespace Sys2Proof.Machine

/-- A destination that the command may write (R99), of a length the buffer holds if the sizes are legal. -/
def Destination.SuitedTo (i : Instr) (p : Config.Params) : Destination → Prop
  | .none => True
  | .bbuf bits => i ∈ [Instr.unpack, .frame, .arbitrate, .arbitrateF] ∧ (p.Valid → bits.length ≤ p.bbufSize)
  | .obuf bytes => i ∈ [Instr.pack, .parse, .embed, .extmsg] ∧ (p.Valid → bytes.length ≤ p.obufSize)

/-- Writes that the command may make from the state. -/
structure Writes.SuitedTo (w : Writes) (i : Instr) (s : State) : Prop where
  dest : w.dest.SuitedTo i s.params
  result : s.params.Valid → w.result < 2 ^ 34
  cut : w.cut = true → i = .arbitrateF ∧ w.result < s.ilen.toNat

/-- A frame of at most ILEN bytes, cut only when it is shorter, is what either form of ARBITRATE may write. -/
theorem frameWrites_suitedTo {i : Instr} {s : State} {msg : List Byte} {cut : Bit} (hi : i = .arbitrate ∨ i = .arbitrateF)
    (hlen : msg.length ≤ s.ilen.toNat) (hfits : s.ilen.toNat ≤ s.params.ibufSize)
    (hcut : cut = true → i = .arbitrateF ∧ msg.length < s.ilen.toNat) : (frameWrites msg cut).SuitedTo i s := by
  refine ⟨⟨?_, fun ⟨_, hsize, _⟩ => ?_⟩, fun ⟨_, hsize, _, _, hbbuf, _⟩ => ?_, hcut⟩
  · rcases hi with rfl | rfl <;> decide
  · rw [frame_length]
    omega
  · simp only [frameWrites]
    omega

/-- A success writes what its command may write: every check of R243 was met, and each rule's output is then known. -/
theorem exec_success_writes {i : Instr} {s t : State} (h : exec i s = .next t) (he : t.err = false) :
    ∃ w, t = s.complete (.ok w) ∧ w.SuitedTo i s := by
  have hcode := expectedCode_eq_zero_of_not_err h he
  suffices hok : ∃ w, exec i s = .next (s.complete (.ok w)) ∧ w.SuitedTo i s by
    obtain ⟨w, hexec, hw⟩ := hok
    exact ⟨w, Host.Outcome.next.inj (h.symm.trans hexec), hw⟩
  have hwh := s.capacity_lt
  cases i with
  | unpack =>
    simp only [State.expectedCode] at hcode
    split_ifs at hcode with hi
    refine ⟨_, exec_unpack_ok (not_lt.mp hi), ⟨by decide, fun ⟨_, hsize, _⟩ => ?_⟩, fun ⟨_, hsize, _, _, hbbuf, _⟩ => ?_, nofun⟩
    · rw [bytesToBits_length, s.message_length]
      omega
    · dsimp only
      omega
  | pack =>
    simp only [State.expectedCode] at hcode
    split_ifs at hcode with hb h8
    refine ⟨_, exec_pack_ok (not_lt.mp hb) (not_not.mp h8), ⟨by decide, fun ⟨_, _, _, _, _, _, hobuf, _⟩ => ?_⟩,
      fun ⟨_, _, _, _, hbbuf, _⟩ => ?_, nofun⟩
    · rw [packGroups_length, s.bits_length]
      omega
    · dsimp only
      omega
  | capacity =>
    simp only [State.expectedCode, s.bpc_toNat_ne_one_iff] at hcode
    split_ifs at hcode with hd
    exact ⟨_, exec_capacity_ok (not_not.mp hd), trivial, fun _ => hwh, nofun⟩
  | frame =>
    simp only [State.expectedCode] at hcode
    split_ifs at hcode with hi
    refine ⟨_, exec_frame_ok (not_lt.mp hi), ⟨by decide, fun ⟨_, hsize, _⟩ => ?_⟩, fun ⟨_, hsize, _, _, hbbuf, _⟩ => ?_, nofun⟩
    · rw [frame_length, s.message_length]
      omega
    · dsimp only
      omega
  | parse =>
    simp only [State.expectedCode] at hcode
    split_ifs at hcode with hb h32 hL
    obtain ⟨payload, hexec, hlen, -⟩ := exec_parse_ok (not_lt.mp hb) (not_lt.mp hL)
    have hlt := headerValue_lt s.bbufAt
    refine ⟨_, hexec, ⟨by decide, fun ⟨_, _, _, _, _, _, hobuf, _⟩ => ?_⟩, fun _ => ?_, nofun⟩
    · omega
    · dsimp only
      omega
  | arbitrate =>
    obtain ⟨hi, hfit⟩ := State.expectedCode_arbitrate_eq_zero hcode
    exact ⟨_, exec_arbitrate_ok hi hfit, frameWrites_suitedTo (.inl rfl) s.message_length.le hi nofun⟩
  | arbitrateF =>
    obtain ⟨hi, hf, hmb⟩ := State.expectedCode_arbitrateF_eq_zero hcode
    refine ⟨_, exec_arbitrateF_ok hi hf hmb, frameWrites_suitedTo (.inr rfl) ?_ hi fun hcut => ⟨rfl, ?_⟩⟩
    · exact s.keptMessage_length.trans_le s.keptLength_le
    · exact s.keptMessage_length.trans_lt (of_decide_eq_true hcut)
  | embed =>
    simp only [State.expectedCode, s.bpc_toNat_ne_one_iff] at hcode
    split_ifs at hcode with hr hd hs hbig
    obtain ⟨hc, hb⟩ := not_or.mp hr
    refine ⟨_, exec_embed_ok (not_lt.mp hc) (not_lt.mp hb) (not_not.mp hd) (not_not.mp hs) (not_lt.mp hbig),
      ⟨by decide, fun ⟨_, _, _, _, _, hobuf, _⟩ => ?_⟩, fun _ => ?_, nofun⟩
    · rw [embedBits_length, s.pixels_length]
      omega
    · dsimp only
      omega
  | exthdr =>
    simp only [State.expectedCode, s.bpc_toNat_ne_one_iff] at hcode
    split_ifs at hcode with hc hd hs h32
    have hlt := headerValue_lt s.lowBit
    exact ⟨_, exec_exthdr_ok (not_lt.mp hc) (not_not.mp hd) (not_not.mp hs) (not_lt.mp h32), trivial,
      fun _ => hlt.trans (by decide), nofun⟩
  | extmsg =>
    simp only [State.expectedCode, s.bpc_toNat_ne_one_iff] at hcode
    split_ifs at hcode with hc hd hs h32 hL
    obtain ⟨payload, hexec, hlen, -⟩ := exec_extmsg_ok (not_lt.mp hc) (not_not.mp hd) (not_not.mp hs) (not_lt.mp hL)
    have hlt := headerValue_lt s.lowBit
    refine ⟨_, hexec, ⟨by decide, fun ⟨_, _, _, _, _, hobuf, _⟩ => ?_⟩, fun _ => ?_, nofun⟩
    · omega
    · dsimp only
      omega

end Sys2Proof.Machine
end

section
/-! SUPPORT. The invariant under each of the state's updates: a completion, issue, a host write, a reset, and the fields it does
not speak of (R35, R45, R46, R53). -/

namespace Sys2Proof.Machine

variable {s t : State}

theorem State.StatusInv.congr (h : s.StatusInv)
    (e : (t.busy, t.done, t.err, t.trunc, t.errcode) = (s.busy, s.done, s.err, s.trunc, s.errcode)) : t.StatusInv := by
  simp only [Prod.mk.injEq] at e
  obtain ⟨busy, done, err, trunc, errcode⟩ := e
  obtain ⟨busyClears, errIffCode, truncNoErr, codeKnown⟩ := h
  constructor <;> simpa only [busy, done, err, trunc, errcode]

theorem State.BuffersInv.congr (h : s.BuffersInv)
    (e : (t.params, t.ibuf, t.cbuf, t.bbuf, t.obuf) = (s.params, s.ibuf, s.cbuf, s.bbuf, s.obuf)) : t.BuffersInv := by
  simp only [Prod.mk.injEq] at e
  obtain ⟨params, ibuf, cbuf, bbuf, obuf⟩ := e
  obtain ⟨ibufWf, cbufWf, bbufWf, obufWf, ibufWithin, cbufWithin, bbufWithin, obufWithin⟩ := h
  constructor <;> simpa only [params, ibuf, cbuf, bbuf, obuf]

/-! A completion (R241). -/

theorem ErrorCode.code_toNat_le (e : ErrorCode) : e.code.toNat ≤ 13 := by cases e <;> decide

/-- STATUS after a completion, whatever its outcome. -/
theorem State.complete_statusInv (s : State) (r : Result) : (s.complete r).StatusInv := by
  cases r with
  | error e => exact ⟨nofun, bne_eq_false_iff_eq, nofun, e.code_toNat_le⟩
  | ok w => exact ⟨nofun, iff_of_true rfl rfl, fun _ => rfl, Nat.zero_le _⟩

theorem State.Inv.complete_error (h : s.Inv) (hw : s.wait = 0) (e : ErrorCode) : (s.complete (.error e)).Inv :=
  ⟨h.sizes, s.complete_statusInv _, h.buffers.congr rfl, h.olenFits, h.resultFits, fun _ => ⟨rfl, hw⟩⟩

/-- A destination that its buffer holds keeps the buffers in form and in bounds. -/
theorem State.BuffersInv.writeDest (h : s.BuffersInv) (hp : s.params.Valid) {i : Instr} {d : Destination}
    (hd : d.SuitedTo i s.params) : (s.writeDest d).BuffersInv := by
  cases d with
  | none => exact h
  | bbuf bits =>
    exact { ibufWf := h.ibufWf, cbufWf := h.cbufWf, bbufWf := Memory.write_wf h.bbufWf 0 bits, obufWf := h.obufWf,
            ibufWithin := h.ibufWithin, cbufWithin := h.cbufWithin, obufWithin := h.obufWithin,
            bbufWithin := Memory.write_within h.bbufWithin (.inr (by rw [Nat.zero_add]; exact hd.2 hp)) }
  | obuf bytes =>
    exact { ibufWf := h.ibufWf, cbufWf := h.cbufWf, bbufWf := h.bbufWf, obufWf := Memory.write_wf h.obufWf 0 bytes,
            ibufWithin := h.ibufWithin, cbufWithin := h.cbufWithin, bbufWithin := h.bbufWithin,
            obufWithin := Memory.write_within h.obufWithin (.inr (by rw [Nat.zero_add]; exact hd.2 hp)) }

/-- OLEN after a destination is written is at most OBUF_SIZE. -/
theorem State.writeDest_olen_le (h : s.olen.toNat ≤ s.params.obufSize) (hp : s.params.Valid) {i : Instr} {d : Destination}
    (hd : d.SuitedTo i s.params) : (s.writeDest d).olen.toNat ≤ s.params.obufSize := by
  cases d with
  | none => exact h
  | bbuf bits => exact h
  | obuf bytes =>
    rw [State.writeDest_obuf_olen, BitVec.toNat_ofNat]
    exact (Nat.mod_le _ _).trans (hd.2 hp)

theorem State.Inv.complete_ok (h : s.Inv) (hw : s.wait = 0) {i : Instr} {w : Writes} (hwrites : w.SuitedTo i s) :
    (s.complete (.ok w)).Inv := by
  have hframe := (s.complete_frame (.ok w)).surroundings
  refine ⟨?_, s.complete_statusInv _, (h.buffers.writeDest h.sizes hwrites.dest).congr rfl, ?_, ?_, fun _ => ⟨rfl, ?_⟩⟩
  · rw [hframe.params]
    exact h.sizes
  · rw [hframe.params]
    exact State.writeDest_olen_le h.olenFits h.sizes hwrites.dest
  · rw [s.complete_ok_result, BitVec.toNat_ofNat]
    exact (Nat.mod_le _ _).trans_lt (hwrites.result h.sizes)
  · rw [hframe.wait, hw]

/-- A due completion keeps the invariant. -/
theorem State.Inv.completeLatched (h : s.Inv) (hw : s.wait = 0) (hc : completeLatched s = .next t) : t.Inv := by
  rw [Machine.completeLatched] at hc
  split at hc
  · obtain rfl := Host.Outcome.next.inj hc
    exact h.complete_error hw .illegalCommand
  · next i _ =>
    obtain ⟨r, hr⟩ := exec_eq_complete i s
    obtain rfl := Host.Outcome.next.inj (hr.symm.trans hc)
    cases r with
    | error e => exact h.complete_error hw e
    | ok w =>
      obtain ⟨w', heq, hw'⟩ := exec_success_writes hc rfl
      rw [heq]
      exact h.complete_ok hw hw'

/-! The host (R80 to R93). -/

/-- The invariant does not speak of HERR, the draw count, the replies and the host's program. -/
theorem State.Inv.withHostFields (h : s.Inv) (herr : Bit) (draws : Nat) (replies : List Word) (host : List HostOp) :
    State.Inv { s with herr := herr, draws := draws, replies := replies, host := host } :=
  ⟨h.sizes, h.status.congr rfl, h.buffers.congr rfl, h.olenFits, h.resultFits, h.idleClear⟩

/-- While a command is in flight the countdown may be anything. -/
theorem State.Inv.withWait (h : s.Inv) (hb : s.busy = true) (k : Nat) : State.Inv { s with wait := k } :=
  ⟨h.sizes, h.status.congr rfl, h.buffers.congr rfl, h.olenFits, h.resultFits, fun hidle => nomatch hb.symm.trans hidle⟩

theorem State.Inv.issue (h : s.Inv) (v : Word) : (s.issue v).Inv :=
  ⟨h.sizes, ⟨fun _ => ⟨rfl, rfl, rfl, rfl⟩, iff_of_true rfl rfl, nofun, Nat.zero_le _⟩, h.buffers.congr rfl, h.olenFits,
    h.resultFits, nofun⟩

theorem State.Inv.writeStatus (h : s.Inv) (v : Word) : (s.writeStatus v).Inv := by
  rw [State.writeStatus]
  split
  · exact h.withHostFields false s.draws s.replies s.host
  · exact h

theorem State.Inv.writeRegister (h : s.Inv) (r : Register) (v : Word) : (s.writeRegister r v).Inv := by
  cases r with
  | cmd => exact h.issue v
  | status => exact h.writeStatus v
  | _ => exact ⟨h.sizes, h.status.congr rfl, h.buffers.congr rfl, h.olenFits, h.resultFits, h.idleClear⟩

theorem State.BuffersInv.writeCell (h : s.BuffersInv) {b : Buffer} {i : Nat} (hi : i < b.size s.params) (v : Byte) :
    (s.writeCell b i v).BuffersInv := by
  have hfit : ∀ {α : Type} (x : α), [x] = [] ∨ i + [x].length ≤ b.size s.params := fun _ => .inr hi
  cases b with
  | ibuf =>
    exact { ibufWf := Memory.write_wf h.ibufWf i [v], cbufWf := h.cbufWf, bbufWf := h.bbufWf, obufWf := h.obufWf,
            ibufWithin := Memory.write_within h.ibufWithin (hfit v), cbufWithin := h.cbufWithin,
            bbufWithin := h.bbufWithin, obufWithin := h.obufWithin }
  | cbuf =>
    exact { ibufWf := h.ibufWf, cbufWf := Memory.write_wf h.cbufWf i [v], bbufWf := h.bbufWf, obufWf := h.obufWf,
            ibufWithin := h.ibufWithin, cbufWithin := Memory.write_within h.cbufWithin (hfit v),
            bbufWithin := h.bbufWithin, obufWithin := h.obufWithin }
  | bbuf =>
    exact { ibufWf := h.ibufWf, cbufWf := h.cbufWf, bbufWf := Memory.write_wf h.bbufWf i _, obufWf := h.obufWf,
            ibufWithin := h.ibufWithin, cbufWithin := h.cbufWithin,
            bbufWithin := Memory.write_within h.bbufWithin (hfit _), obufWithin := h.obufWithin }
  | obuf => exact h

theorem State.Inv.writeCell (h : s.Inv) {b : Buffer} {i : Nat} (hi : i < b.size s.params) (v : Byte) :
    (s.writeCell b i v).Inv := by
  have hbuffers := h.buffers.writeCell hi v
  cases b with
  | obuf => exact h
  | _ => exact ⟨h.sizes, h.status.congr rfl, hbuffers, h.olenFits, h.resultFits, h.idleClear⟩

theorem State.Inv.hostWrite (h : s.Inv) (a : Word) (size : Size) (v : Word) : (s.hostWrite a size v).Inv := by
  rcases s.hostWrite_cases a size v with he | ⟨-, he⟩ | ⟨r, -, -, -, -, he⟩ | ⟨b, i, -, -, ht, he⟩ <;> rw [he]
  · exact h.withHostFields true s.draws s.replies s.host
  · exact h.writeStatus v
  · exact h.writeRegister r v
  · obtain ⟨-, hi, -⟩ := target_eq_cell ht
    exact h.writeCell hi _

theorem State.Inv.hostRead (h : s.Inv) (a : Word) (size : Size) : (s.hostRead a size).Inv := by
  obtain ⟨herr, draws, replies, he⟩ := s.hostRead_fields a size
  rw [he]
  exact h.withHostFields herr draws replies s.host

/-- The reset state has no cell written and every register that the invariant speaks of clear (R55). -/
theorem State.reset_inv : State.reset.Inv where
  sizes := by decide
  status := ⟨nofun, by decide, nofun, by decide⟩
  buffers := ⟨.nil, .nil, .nil, .nil, nofun, nofun, nofun, nofun⟩
  olenFits := by decide
  resultFits := by decide
  idleClear := fun _ => ⟨rfl, rfl⟩

theorem State.Inv.resetBlock (h : s.Inv) : s.resetBlock.Inv :=
  ⟨h.sizes, State.reset_inv.status.congr rfl, ⟨.nil, .nil, .nil, .nil, nofun, nofun, nofun, nofun⟩, Nat.zero_le _,
    State.reset_inv.resultFits, State.reset_inv.idleClear⟩

theorem State.Inv.transact (h : s.Inv) (x : Transaction) : (s.transact x).Inv := by
  cases x with
  | read a size => exact h.hostRead a size
  | write a size v => exact h.hostWrite a size v
  | reset => exact h.resetBlock

theorem State.Inv.hostStep (h : s.Inv) : s.hostStep.Inv := by
  rw [State.hostStep]
  split
  · exact h
  · next op rest _ =>
    cases op with
    | txn x => exact (h.transact x).withHostFields _ _ _ rest
    | wait => exact (h.hostRead statusAddr .four).withHostFields _ _ _ _
    | writeBack a => exact (h.hostWrite a .one s.lastReply).withHostFields _ _ _ rest

end Sys2Proof.Machine
end

section
/-! PROOFS. The invariant (R9, R35, R45, R46, R53). -/

namespace Sys2Proof.Machine

/-- Settles O12: a due completion keeps it, and the countdown and every host operation do. -/
theorem stepKeepsInvariant : Obligations.StepKeepsInvariant := by
  intro s t h hstep
  rcases step_cases hstep with ⟨-, hw, hc⟩ | ⟨k, hb, -, rfl⟩ | ⟨-, rfl⟩
  · exact h.completeLatched hw hc
  · exact (h.withWait hb k).hostStep
  · exact h.hostStep

/-- Settles O2: the base of the invariant, at the reference sizes. -/
theorem resetSatisfiesInvariant : Obligations.ResetSatisfiesInvariant := State.reset_inv

end Sys2Proof.Machine
end

section
/-! SUPPORT. What a completion leaves in the state, from what its command may write (R99, R241, R242). -/

namespace Sys2Proof.Machine

/-- A command fails, writing only STATUS, or succeeds with writes it may make. -/
theorem exec_fails_or_writes {i : Instr} {s t : State} (h : exec i s = .next t) :
    (t.err = true ∧ t.trunc = false ∧ s.FailureFrame t) ∨ ∃ w, t = s.complete (.ok w) ∧ w.SuitedTo i s := by
  obtain ⟨r, hr⟩ := exec_eq_complete i s
  cases r with
  | error e =>
    obtain rfl := Host.Outcome.next.inj (hr.symm.trans h)
    exact .inl ⟨(s.complete_error_failed e).err, rfl, s.complete_error_frame e⟩
  | ok w =>
    obtain rfl := Host.Outcome.next.inj (hr.symm.trans h)
    exact .inr (exec_success_writes h rfl)

/-- A success that does not write BBUF leaves it and BLEN. -/
theorem State.complete_ok_sameBits {i : Instr} {s : State} {w : Writes} (hw : w.SuitedTo i s)
    (hi : i ∉ [Instr.unpack, .frame, .arbitrate, .arbitrateF]) : s.SameBits (s.complete (.ok w)) := by
  obtain ⟨dest, result, cut⟩ := w
  cases dest with
  | none => exact (s.complete_ok_none result cut).1
  | bbuf bits => exact absurd hw.dest.1 hi
  | obuf bytes =>
    obtain ⟨-, -, -, hbits⟩ := s.complete_ok_obuf bytes result cut
    exact hbits

/-- A success that does not write OBUF leaves it and OLEN. -/
theorem State.complete_ok_sameOutput {i : Instr} {s : State} {w : Writes} (hw : w.SuitedTo i s)
    (hi : i ∉ [Instr.pack, .parse, .embed, .extmsg]) : s.SameOutput (s.complete (.ok w)) := by
  obtain ⟨dest, result, cut⟩ := w
  cases dest with
  | none => exact (s.complete_ok_none result cut).2
  | bbuf bits =>
    obtain ⟨-, -, -, hout⟩ := s.complete_ok_bbuf bits result cut
    exact hout
  | obuf bytes => exact absurd hw.dest.1 hi

/-- Every completion ends with BUSY = 0, DONE = 1 and a clear latch. -/
theorem completeLatched_idle {s t : State} (h : completeLatched s = .next t) :
    t.busy = false ∧ t.done = true ∧ t.latch = 0#32 := by
  obtain ⟨r, hr⟩ := completeLatched_eq_complete s
  obtain rfl := Host.Outcome.next.inj (hr.symm.trans h)
  cases r <;> exact ⟨rfl, rfl, rfl⟩

/-- A completion of a legal word is `exec` of its command. -/
theorem completeLatched_command {s : State} {i : Instr} (h : decode s.latch = .command i) :
    completeLatched s = exec i s := by
  rw [completeLatched, h]

theorem completeLatched_illegal {s : State} {why : Illegal} (h : decode s.latch = .illegal why) :
    completeLatched s = .next (s.complete (.error .illegalCommand)) := by
  rw [completeLatched, h]

/-! The two forms of ARBITRATE, by what they read and what they write (R190, R198). -/

/-- The message depends on ILEN and the cells of IBUF below it alone. -/
theorem State.message_congr {s s' : State} (hlen : s'.ilen = s.ilen) (h : ∀ k < s.ilen.toNat, s'.ibufAt k = s.ibufAt k) :
    s'.message = s.message := by
  rw [State.message, State.message, hlen]
  exact readCells_congr fun k hk => by rw [Nat.zero_add]; exact h k hk

/-- Framing the final message fails, or writes its frame. -/
theorem frameFinal_cases (x : Except ErrorCode (List Byte × Bit)) :
    (∃ e, frameFinal x = .error e) ∨ ∃ msg cut, frameFinal x = .ok (frameWrites msg cut) := by
  cases x with
  | error e => exact .inl ⟨e, rfl⟩
  | ok final =>
    obtain ⟨msg, cut⟩ := final
    by_cases hlen : Config.maxMsgLen < msg.length
    · exact .inl ⟨.payloadTooLarge, by rw [frameFinal, buildFrame, if_pos hlen]⟩
    · exact .inr ⟨msg, cut, by rw [frameFinal, buildFrame, if_neg hlen, frameWrites]⟩

/-- Either form of ARBITRATE has a rule that reads only its operands, and fails or writes a frame. -/
theorem exec_arbitrate_rule {i : Instr} (hi : i = .arbitrate ∨ i = .arbitrateF) :
    ∃ rule : State → Result, (∀ s, exec i s = .next (s.complete (rule s))) ∧
      (∀ s, (∃ e, rule s = .error e) ∨ ∃ msg cut, rule s = .ok (frameWrites msg cut)) ∧
      ∀ s s' : State, s'.params = s.params → s'.width = s.width → s'.height = s.height → s'.ilen = s.ilen →
        s'.message = s.message → (i = .arbitrateF → s'.fracNum = s.fracNum ∧ s'.fracDen = s.fracDen) → rule s' = rule s := by
  have hrange : ∀ s s' : State, s'.params = s.params → s'.ilen = s.ilen → s'.ilenTooLarge = s.ilenTooLarge :=
    fun s s' hp hl => by rw [State.ilenTooLarge, hp, hl, ← State.ilenTooLarge]
  have hcount : ∀ s s' : State, s'.width = s.width → s'.height = s.height → s'.pixelCount = s.pixelCount :=
    fun s s' hw hh => by rw [State.pixelCount, hw, hh, ← State.pixelCount]
  rcases hi with rfl | rfl
  · refine ⟨arbitrateResult, fun _ => rfl, fun s => ?_, fun s s' hp hw hh hl hm _ => ?_⟩
    · rw [arbitrateResult]
      split
      · exact .inl ⟨_, rfl⟩
      · exact frameFinal_cases _
    · rw [arbitrateResult, hrange s s' hp hl, hcount s s' hw hh, hm, ← arbitrateResult]
  · refine ⟨arbitrateFResult, fun _ => rfl, fun s => ?_, fun s s' hp hw hh hl hm hfrac => ?_⟩
    · rw [arbitrateFResult]
      split_ifs
      · exact .inl ⟨_, rfl⟩
      · exact .inl ⟨_, rfl⟩
      · exact frameFinal_cases _
    · obtain ⟨hnum, hden⟩ := hfrac rfl
      have hfrac' : s'.fractionInvalid = s.fractionInvalid := by
        rw [State.fractionInvalid, hnum, hden, ← State.fractionInvalid]
      rw [arbitrateFResult, hrange s s' hp hl, hfrac', hcount s s' hw hh, hnum, hden, hm, ← arbitrateFResult]

/-- The same frame written from two states leaves the same RESULT, BLEN and bits. -/
theorem State.complete_frameWrites_congr (s s' : State) (msg : List Byte) (cut : Bit) {t t' : State}
    (ht : t = s.complete (.ok (frameWrites msg cut))) (ht' : t' = s'.complete (.ok (frameWrites msg cut))) :
    t'.result = t.result ∧ t'.blen = t.blen ∧ ∀ j < t.blen.toNat, t'.bbufAt j = t.bbufAt j := by
  subst ht ht'
  obtain ⟨hblen, hbits, -⟩ := s.complete_ok_bbuf (bytesToBits (be32 msg.length ++ msg)) msg.length cut
  obtain ⟨hblen', hbits', -⟩ := s'.complete_ok_bbuf (bytesToBits (be32 msg.length ++ msg)) msg.length cut
  refine ⟨rfl, rfl, fun j hj => ?_⟩
  rw [frameWrites] at hj ⊢
  rw [hblen, BitVec.toNat_ofNat] at hj
  have hlt := hj.trans_le (Nat.mod_le _ _)
  rw [hbits j hlt, hbits' j hlt]

/-! The fields no command reads (R57, R246). -/

/-- `s` with the flags of STATUS, the latch, the countdown, the draw count, the host and the replies of `c`. -/
def State.withControl (s c : State) : State :=
  { s with busy := c.busy, done := c.done, err := c.err, trunc := c.trunc, herr := c.herr, errcode := c.errcode,
           latch := c.latch, wait := c.wait, draws := c.draws, host := c.host, replies := c.replies }

/-- Each command completes with the outcome of a rule that reads no flag, nor the latch, the countdown or the host. -/
theorem exec_rule_ignores_control (i : Instr) :
    ∃ rule : State → Result, (∀ s, exec i s = .next (s.complete (rule s))) ∧
      ∀ s c : State, rule (s.withControl c) = rule s := by
  cases i <;> exact ⟨_, fun _ => rfl, fun _ _ => rfl⟩

/-- A completion overwrites every flag but HERR, which it carries along. -/
theorem State.complete_withFlags (s : State) (r : Result) (b d e c h : Bit) (code : BitVec 4) :
    State.complete { s with busy := b, done := d, err := e, trunc := c, herr := h, errcode := code } r =
      { s.complete r with herr := h } := by
  cases r with
  | error e => rfl
  | ok w =>
    obtain ⟨dest, result, cut⟩ := w
    cases dest <;> rfl

end Sys2Proof.Machine
end

section
/-! PROOFS. Rules over all commands: destinations, STATUS and flags (R57, R99, R241), and ARBITRATE (R190, R198). -/

namespace Sys2Proof.Machine

/-- Settles O39: BBUF takes the frame of the whole message; the two failures are the two checks of the rule, in order. -/
theorem arbitrateFramesWholeMessage : Obligations.ArbitrateFramesWholeMessage := by
  refine ⟨rfl, fun s hp hi hfit => ?_, fun s hi => exec_fails (exec_arbitrate_outOfRange hi),
    fun s hi hbig => exec_fails (exec_arbitrate_payloadTooLarge hi hbig)⟩
  obtain ⟨hblen, hresult, hheader, hpayload, hrest, hout⟩ := State.complete_frameWrites hp s.message_length hi rfl
  refine ⟨_, exec_arbitrate_ok hi hfit, s.complete_ok_succeeded _, s.complete_frame _, hout, hblen, hresult, hheader,
    fun k hk j hj => ?_, hrest⟩
  rw [hpayload k (by rwa [s.message_length]) j hj, s.message_getElem]

/-- Settles O46: a failure leaves every destination, and a success writes only a destination that its command may write. -/
theorem commandsWriteOnlyTheirDestination : Obligations.CommandsWriteOnlyTheirDestination := by
  intro i s t h
  refine ⟨exec_commandFrame h, fun hi => ?_, fun hi => ?_⟩
  all_goals rcases exec_fails_or_writes h with ⟨-, -, hfail⟩ | ⟨w, rfl, hw⟩
  · exact hfail.bits
  · exact State.complete_ok_sameBits hw hi
  · exact hfail.output
  · exact State.complete_ok_sameOutput hw hi

/-- Settles O47: TRUNC is the cut of a success, which only ARBITRATE.F makes, and then of fewer bytes than ILEN. -/
theorem completionStatus : Obligations.CompletionStatus := by
  intro s t h
  obtain ⟨hbusy, hdone, hlatch⟩ := completeLatched_idle h
  have herr : t.err = true ↔ t.errcode ≠ 0#4 := by
    obtain ⟨r, hr⟩ := completeLatched_eq_complete s
    obtain rfl := Host.Outcome.next.inj (hr.symm.trans h)
    rw [ne_eq, ← (s.complete_statusInv r).errIffCode, Bool.not_eq_false]
  refine ⟨hbusy, hdone, hlatch, herr, fun htrunc => ?_⟩
  cases hd : decode s.latch with
  | illegal why =>
    obtain rfl := Host.Outcome.next.inj ((completeLatched_illegal hd).symm.trans h)
    cases htrunc
  | command i =>
    rw [completeLatched_command hd] at h
    rcases exec_fails_or_writes h with ⟨-, hno, -⟩ | ⟨w, rfl, hw⟩
    · exact nomatch hno.symm.trans htrunc
    · obtain ⟨rfl, hlt⟩ := hw.cut htrunc
      refine ⟨rfl, rfl, ?_⟩
      rw [s.complete_ok_result, BitVec.toNat_ofNat]
      exact (Nat.mod_le _ _).trans_lt hlt

/-- Settles O51: the rule reads only the operands, so both states complete with the same outcome, a failure or a frame. -/
theorem arbitrateDeterminism : Obligations.ArbitrateDeterminism := by
  intro i s s' t t' hi hp hw hh hl hcells hfrac h h'
  obtain ⟨rule, hrule, hcases, hcongr⟩ := exec_arbitrate_rule hi
  have hsame := hcongr s s' hp hw hh hl (State.message_congr hl hcells) hfrac
  have ht := Host.Outcome.next.inj (h.symm.trans (hrule s))
  have ht' := Host.Outcome.next.inj (h'.symm.trans (hrule s'))
  rw [hsame] at ht'
  rcases hcases s with ⟨e, he⟩ | ⟨msg, cut, hok⟩
  · rw [he] at ht ht'
    subst ht ht'
    exact ⟨rfl, rfl, rfl, fun hno => nomatch (s.complete_error_failed e).err.symm.trans hno⟩
  · rw [hok] at ht ht'
    have hframe := State.complete_frameWrites_congr s s' msg cut ht ht'
    subst ht ht'
    exact ⟨rfl, rfl, rfl, fun _ => hframe⟩

/-- Settles O48: no rule reads a flag, and a completion overwrites all of them but HERR. -/
theorem flagsSelectNothing : Obligations.FlagsSelectNothing := by
  intro i s t b d e c h code hexec
  obtain ⟨rule, hrule, hignores⟩ := exec_rule_ignores_control i
  have hsame := hignores s { s with busy := b, done := d, err := e, trunc := c, herr := h, errcode := code }
  simp only [State.withControl] at hsame
  rw [hrule] at hexec ⊢
  rw [hsame, State.complete_withFlags, Host.Outcome.next.inj hexec]

end Sys2Proof.Machine
end

section
/-! SUPPORT. A command in flight: what the steps up to its completion change, that the completion does not depend on it (R9, R93),
and that a run ends (R286, R287). -/

namespace Sys2Proof.Machine

variable {s t u : State}

theorem State.hostStep_cons {op : HostOp} {rest : List HostOp} (h : s.host = op :: rest) :
    s.hostStep = s.hostOp op rest := by
  rw [State.hostStep, h]

/-- While idle a step performs the host's next operation. -/
theorem step_idle_cons {op : HostOp} {rest : List HostOp} (hb : s.busy = false) (h : s.host = op :: rest) :
    step s = .next (s.hostOp op rest) := by
  rw [step_idle hb, State.hostStep_cons h]

theorem State.hostStep_nil (h : s.host = []) : s.hostStep = s := by
  rw [State.hostStep, h]

/-- `t` is `s` but for the countdown, HERR, the draw count, the replies and the host's program: all that the host can move while
a command is in flight. -/
def State.OnlyHostMoved (s t : State) : Prop :=
  ∃ (w : Nat) (h : Bit) (d : Nat) (r : List Word) (p : List HostOp),
    t = { s with wait := w, herr := h, draws := d, replies := r, host := p }

theorem State.OnlyHostMoved.refl (s : State) : s.OnlyHostMoved s := ⟨_, _, _, _, _, rfl⟩

theorem State.OnlyHostMoved.trans (h : s.OnlyHostMoved t) (h' : t.OnlyHostMoved u) : s.OnlyHostMoved u := by
  obtain ⟨_, _, _, _, _, rfl⟩ := h
  obtain ⟨w, h, d, r, p, rfl⟩ := h'
  exact ⟨w, h, d, r, p, rfl⟩

theorem State.OnlyHostMoved.busy (h : s.OnlyHostMoved t) : t.busy = s.busy := by
  obtain ⟨_, _, _, _, _, rfl⟩ := h
  rfl

theorem State.OnlyHostMoved.latch (h : s.OnlyHostMoved t) : t.latch = s.latch := by
  obtain ⟨_, _, _, _, _, rfl⟩ := h
  rfl

theorem State.OnlyHostMoved.params (h : s.OnlyHostMoved t) : t.params = s.params := by
  obtain ⟨_, _, _, _, _, rfl⟩ := h
  rfl

/-- None of it is part of a command's outcome. -/
theorem State.OnlyHostMoved.sameOutcome (h : s.OnlyHostMoved t) : s.SameOutcome t := by
  obtain ⟨_, _, _, _, _, rfl⟩ := h
  exact
    { busy := rfl, done := rfl, err := rfl, errcode := rfl, trunc := rfl, latch := rfl, result := rfl
      registers := ⟨rfl, rfl, rfl, rfl, rfl, rfl, rfl⟩
      inputs := ⟨fun _ => rfl, fun _ => rfl⟩
      bits := ⟨rfl, fun _ => rfl⟩
      output := ⟨rfl, fun _ => rfl⟩ }

/-- A completion carries all of it along. -/
theorem State.OnlyHostMoved.complete (h : s.OnlyHostMoved t) (r : Result) : (s.complete r).OnlyHostMoved (t.complete r) := by
  obtain ⟨w, h, d, l, p, rfl⟩ := h
  refine ⟨w, h, d, l, p, ?_⟩
  cases r with
  | error e => rfl
  | ok v =>
    obtain ⟨dest, result, cut⟩ := v
    cases dest <;> rfl

/-- No command reads any of it. -/
theorem State.OnlyHostMoved.exec (h : s.OnlyHostMoved t) (i : Instr) :
    ∃ s' t', exec i s = .next s' ∧ exec i t = .next t' ∧ s'.OnlyHostMoved t' := by
  obtain ⟨rule, hrule, hignores⟩ := exec_rule_ignores_control i
  have hsame : rule t = rule s := by
    obtain ⟨w, h, d, l, p, rfl⟩ := h
    exact hignores s { s with wait := w, herr := h, draws := d, replies := l, host := p }
  exact ⟨_, _, hrule s, by rw [hrule t, hsame], h.complete _⟩

/-- While a command is in flight the host's next operation, short of a reset, moves only its own side, and its program loses at
most its first operation. -/
theorem State.hostStep_busy (hb : s.busy = true) {n : Nat} (hr : s.NoResetWithin (n + 1)) :
    s.OnlyHostMoved s.hostStep ∧ s.hostStep.wait = s.wait ∧ s.hostStep.NoResetWithin n := by
  cases hhost : s.host with
  | nil =>
    rw [State.hostStep_nil hhost, State.NoResetWithin, hhost, List.take_nil]
    exact ⟨.refl s, rfl, List.not_mem_nil⟩
  | cons op rest =>
    rw [State.hostStep_cons hhost]
    rw [State.NoResetWithin, hhost, List.take_succ_cons, List.mem_cons, not_or] at hr
    obtain ⟨hop, hrest⟩ := hr
    obtain ⟨h, d, r, p, he, hp⟩ := s.hostOp_busy_fields hb op rest (Ne.symm hop)
    rw [he]
    refine ⟨⟨s.wait, h, d, r, p, rfl⟩, rfl, ?_⟩
    rcases hp with rfl | ⟨rfl, rfl⟩
    · exact hrest
    · intro hmem
      rcases List.mem_cons.mp (List.take_subset_take_left _ (Nat.le_succ n) hmem) with hop' | hmem'
      · exact hop hop'
      · exact hrest hmem'

/-- Steps not above the countdown, with no reset among the host's operations, move only the host's side (R93). -/
theorem run_waiting (k : Nat) (hb : s.busy = true) (hk : k ≤ s.wait) (hr : s.NoResetWithin k) :
    ∃ t : State, Sys2Proof.core.run k s = .next t ∧ s.OnlyHostMoved t ∧ t.wait + k = s.wait := by
  induction k generalizing s with
  | zero => exact ⟨s, rfl, .refl s, rfl⟩
  | succ k ih =>
    obtain ⟨m, hm⟩ := Nat.exists_eq_add_of_le' (Nat.le_of_add_left_le hk)
    have hstep := step_waiting hb hm
    obtain ⟨hmoved, hwait, hr'⟩ := State.hostStep_busy (s := { s with wait := m }) hb hr
    have hmoved' := State.OnlyHostMoved.trans (s := s) ⟨m, s.herr, s.draws, s.replies, s.host, rfl⟩ hmoved
    obtain ⟨t, hrun, ht, htw⟩ := ih (hmoved.busy.trans hb) (by rw [hwait]; dsimp only; omega) hr'
    refine ⟨t, (run_succ k hstep).trans hrun, hmoved'.trans ht, ?_⟩
    rw [hwait] at htw
    dsimp only at htw
    omega

/-- The whole countdown and the completion: the completion starts from a state in which only the host has moved. -/
theorem run_to_completion (hb : s.busy = true) (hr : s.NoResetWithin s.wait) :
    ∃ u : State, s.OnlyHostMoved u ∧ Sys2Proof.core.run (s.wait + 1) s = completeLatched u := by
  obtain ⟨u, hrun, hmoved, hwait⟩ := run_waiting s.wait hb le_rfl hr
  have hdue : step u = completeLatched u := step_due (hmoved.busy.trans hb) (by omega)
  obtain ⟨r, hc⟩ := completeLatched_eq_complete u
  refine ⟨u, hmoved, ?_⟩
  exact (run_add 1 hrun).trans ((run_succ 0 (hdue.trans hc)).trans hc.symm)

/-- A host that waits stays in front of its `wait` until the completion (R120). -/
theorem run_wait_to_completion (rest : List HostOp) (n : Nat) (hb : s.busy = true) (hw : s.wait = n)
    (hhost : s.host = .wait :: rest) :
    ∃ t : State, Sys2Proof.core.run (n + 1) s = .next t ∧ t.busy = false ∧ t.done = true ∧ t.host = .wait :: rest := by
  induction n generalizing s with
  | zero =>
    obtain ⟨r, hc⟩ := completeLatched_eq_complete s
    obtain ⟨hbusy, hdone, -⟩ := completeLatched_idle hc
    refine ⟨_, run_succ 0 ((step_due hb hw).trans hc), hbusy, hdone, ?_⟩
    rw [(s.complete_frame r).surroundings.host, hhost]
  | succ n ih =>
    have hstep := step_waiting hb hw
    rw [State.hostStep_cons (s := { s with wait := n }) hhost, State.hostOp_wait] at hstep
    obtain ⟨t, hrun, ht⟩ := ih (s := { State.reply { s with wait := n } _ with host := _ }) hb rfl (if_pos hb)
    exact ⟨t, (run_succ _ hstep).trans hrun, ht⟩

/-! The end of a run (R286). -/

/-- Steps that a command in flight has yet to take, its completion among them. -/
def State.pending (s : State) : Nat := if s.busy then s.wait + 1 else 0

/-- The host's step does an operation and goes on, unless there is none or it is a `wait` that read BUSY = 1. -/
theorem State.hostStep_progress (s : State) :
    s.hostStep.host.length < s.host.length ∨
      ((s.host = [] ∨ s.busy = true) ∧ s.hostStep.host = s.host ∧ s.hostStep.busy = s.busy ∧ s.hostStep.wait = s.wait) := by
  cases hhost : s.host with
  | nil =>
    rw [State.hostStep_nil hhost]
    exact .inr ⟨.inl rfl, hhost, rfl, rfl⟩
  | cons op rest =>
    rw [State.hostStep_cons hhost]
    cases op with
    | txn x => exact .inl (Nat.lt_succ_self _)
    | writeBack a => exact .inl (Nat.lt_succ_self _)
    | wait =>
      rw [State.hostOp_wait]
      cases hb : s.busy with
      | false => exact .inl (Nat.lt_succ_self _)
      | true => exact .inr ⟨.inr rfl, rfl, hb, rfl⟩

/-- Each step of a run that has not ended uses up an operation of the host, or else one of the pending steps. -/
theorem step_progress (h : s.runEnded = false) :
    ∃ t : State, step s = .next t ∧
      (t.host.length < s.host.length ∨ (t.host.length = s.host.length ∧ t.pending < s.pending)) := by
  cases hb : s.busy with
  | false =>
    refine ⟨_, step_idle hb, ?_⟩
    rcases s.hostStep_progress with hless | ⟨hhost | hb', -⟩
    · exact .inl hless
    · rw [State.runEnded, hhost, hb] at h
      cases h
    · exact nomatch hb.symm.trans hb'
  | true =>
    cases hw : s.wait with
    | zero =>
      obtain ⟨r, hc⟩ := completeLatched_eq_complete s
      obtain ⟨hbusy, -, -⟩ := completeLatched_idle hc
      refine ⟨_, (step_due hb hw).trans hc, .inr ⟨?_, ?_⟩⟩
      · rw [(s.complete_frame r).surroundings.host]
      · simp only [State.pending, hbusy, hb, Bool.false_eq_true, if_false, if_true]
        exact Nat.succ_pos _
    | succ k =>
      refine ⟨_, step_waiting hb hw, ?_⟩
      rcases State.hostStep_progress { s with wait := k } with hless | ⟨-, hhost, hbusy, hwait⟩
      · exact .inl hless
      · refine .inr ⟨congrArg List.length hhost, ?_⟩
        rw [State.pending, hbusy, hwait, State.pending, if_pos hb, if_pos hb, hw]
        exact Nat.lt_succ_self _

/-- Operations and pending steps run out. -/
theorem exists_reaches_runEnded (s : State) : ∃ t, Reaches s t ∧ t.runEnded = true := by
  cases h : s.runEnded with
  | true => exact ⟨s, reaches_self s, h⟩
  | false =>
    obtain ⟨u, hstep, hless⟩ := step_progress h
    obtain ⟨t, hreach, hend⟩ := exists_reaches_runEnded u
    exact ⟨t, reaches_step hstep hreach, hend⟩
termination_by (s.host.length, s.pending)
decreasing_by
  exact Prod.lex_def.mpr hless

end Sys2Proof.Machine
end

section
/-! PROOFS. Steps and runs (R93, R120, R241, R256, R286, R287). -/

namespace Sys2Proof.Machine

/-- Settles O13: up to the countdown only the host's side moves. -/
theorem operandsFrozenWhileBusy : Obligations.OperandsFrozenWhileBusy := by
  intro k s hb hk hr
  obtain ⟨t, hrun, hmoved, hwait⟩ := run_waiting k hb hk hr
  exact ⟨t, hrun, hmoved.sameOutcome, hwait, hmoved.params⟩

/-- Settles O14: the completion runs the same word on operands that are the same, since no command reads what the host moved. -/
theorem latencyDoesNotChangeOutcome : Obligations.LatencyDoesNotChangeOutcome := by
  intro s i hb hd hr
  obtain ⟨u, hmoved, hrun⟩ := run_to_completion hb hr
  obtain ⟨s', u', hs, hu, hmoved'⟩ := hmoved.exec i
  rw [completeLatched_command (by rw [hmoved.latch, hd]), hu] at hrun
  exact ⟨u', s', hrun, hs, hmoved'.sameOutcome⟩

/-- Settles O15: after the countdown comes the completion, and every completion ends with BUSY = 0 and DONE = 1. -/
theorem issuedCommandCompletes : Obligations.IssuedCommandCompletes := by
  intro s hb hr
  obtain ⟨u, -, hrun⟩ := run_to_completion hb hr
  obtain ⟨r, hc⟩ := completeLatched_eq_complete u
  obtain ⟨hbusy, hdone, -⟩ := completeLatched_idle hc
  exact ⟨_, hrun.trans hc, hbusy, hdone⟩

/-- Settles O16: the `wait` is in front until the completion, and one more step reads STATUS with BUSY = 0 and leaves. -/
theorem waitLoopEnds : Obligations.WaitLoopEnds := by
  intro s rest hb hhost
  obtain ⟨t, hrun, hbusy, hdone, hwait⟩ := run_wait_to_completion rest s.wait hb rfl hhost
  have hstep := step_idle_cons hbusy hwait
  rw [State.hostOp_wait, if_neg (by rw [hbusy]; decide)] at hstep
  exact ⟨_, (run_add 1 hrun).trans (run_succ 0 hstep), rfl, hbusy, hdone, rfl⟩

/-- Settles O58: every step of a run that has not ended uses up an operation or a pending step. -/
theorem everyProgramEnds : Obligations.EveryProgramEnds := exists_reaches_runEnded

/-- Settles O59: a completion that leaves ERR = 0 is of no illegal word and of a command whose checks were all met, and it
leaves HERR as it was. -/
theorem cleanRunCommandsSucceed : Obligations.CleanRunCommandsSucceed := by
  intro k j s t u hclean hj hrun hb hw
  have hdue := step_due hb hw
  obtain ⟨r, hc⟩ := completeLatched_eq_complete u
  obtain ⟨hherr, herr⟩ := hclean.clean j u _ hj hrun hb hw (hdue.trans hc)
  refine ⟨(completeLatched_herr hc).symm.trans hherr, ?_⟩
  have hnext : Sys2Proof.core.run (j + 1) s = .next (u.complete r) :=
    (run_add 1 hrun).trans (run_succ 0 (hdue.trans hc))
  cases hd : decode u.latch with
  | illegal why =>
    obtain ⟨-, hillegal⟩ := errorPriority
    exact nomatch (hillegal u _ why hd hc).2.symm.trans herr
  | command i =>
    have hexec := (completeLatched_command hd).symm.trans hc
    refine ⟨i, _, rfl, expectedCode_eq_zero_of_not_err hexec herr, hnext, ?_⟩
    cases r with
    | error e => exact nomatch (u.complete_error_failed e).err.symm.trans herr
    | ok w => exact u.complete_ok_succeeded w

/-- Settles O8: a due step completes the latched word, which is `exec` of the command it decodes to. -/
theorem stepRunsLatchedCommand : Obligations.StepRunsLatchedCommand := fun _ _ hb hw hd _ =>
  (step_due hb hw).trans (completeLatched_command hd)

/-- Settles O9: idle or counting down, the rest of the step is the host's. -/
theorem stepPerformsHostOperation : Obligations.StepPerformsHostOperation := by
  refine ⟨fun s op rest hhost => ⟨fun hb => step_idle_cons hb hhost, fun k hb hw => ?_⟩, fun s k hb hw hhost => ?_⟩
  · rw [step_waiting hb hw, State.hostStep_cons (s := { s with wait := k }) hhost]
  · rw [step_waiting hb hw, State.hostStep_nil (s := { s with wait := k }) hhost]

/-- Settles O10: with no operation left the idle step is that same state. -/
theorem idleBlockKeepsState : Obligations.IdleBlockKeepsState := fun s hb hhost => by
  rw [step_idle hb, State.hostStep_nil hhost]

/-- Settles O11: a step completes a command or is the host's, and each of these answers a next state. -/
theorem stepAlwaysAnswersNext : Obligations.StepAlwaysAnswersNext := by
  intro s
  cases hb : s.busy with
  | false => exact ⟨_, step_idle hb⟩
  | true =>
    cases hw : s.wait with
    | zero =>
      obtain ⟨r, hc⟩ := completeLatched_eq_complete s
      exact ⟨_, (step_due hb hw).trans hc⟩
    | succ k => exact ⟨_, step_waiting hb hw⟩

end Sys2Proof.Machine
end

section
/-! SUPPORT. The number STATUS reads as (R35), reads while BUSY = 1 (R85), and what an operation of the host can change of the
report and of the inputs (R42, R43, R49, R50, R249). -/

namespace Sys2Proof.Machine

/-- The number of a concatenation: the high part above the low one. -/
theorem toNat_append_eq_add {m n : Nat} (x : BitVec m) (y : BitVec n) : (x ++ y).toNat = x.toNat * 2 ^ n + y.toNat := by
  rw [BitVec.toNat_append, ← Nat.shiftLeft_add_eq_or_of_lt y.isLt, Nat.shiftLeft_eq]

theorem State.statusWord_toNat (s : State) :
    s.statusWord.toNat = s.busy.toNat + 2 * s.done.toNat + 4 * s.err.toNat + 8 * s.trunc.toNat + 16 * s.errcode.toNat +
      256 * s.herr.toNat := by
  simp only [State.statusWord, toNat_append_eq_add, BitVec.toNat_ofBool, BitVec.toNat_ofNat]
  omega

/-! Reads while a command is in flight (R85). -/

/-- A register that is not exact while busy reads as a free value. -/
theorem State.transact_read_busy {s : State} (hb : s.busy = true) {r : Register} (hr : r.exactWhileBusy = false) :
    s.transact (.read (BitVec.ofNat 32 r.offset) .four) = s.countDraw.reply (Config.busyWord s.draws) := by
  rw [State.transact_read_register, State.readRegisterAccess, if_pos (by rw [hb, hr]; rfl)]

/-- So does every cell. -/
theorem State.transact_read_cell_busy {s : State} (hp : s.params.Valid) (hb : s.busy = true) (b : Buffer) {i : Nat}
    (h : i < b.size s.params) :
    s.transact (.read (BitVec.ofNat 32 (b.base + i)) .one) = s.countDraw.reply ((busyCell b s.draws).setWidth 32) := by
  rw [State.transact_read_cell hp b h, State.readCellAccess, if_pos hb]

/-- The free value of a BBUF cell is 0 or 1. -/
theorem busyCell_bbuf_le (n : Nat) : (busyCell .bbuf n).toNat ≤ 1 := by
  rw [busyCell]
  cases Config.busyBit n <;> decide

/-- While busy a write of a cell is an error (R245). -/
theorem State.transact_write_cell_busy {s : State} (hp : s.params.Valid) (hb : s.busy = true) (b : Buffer) {i : Nat}
    (h : i < b.size s.params) (v : Word) : s.transact (.write (BitVec.ofNat 32 (b.base + i)) .one v) = s.raiseHerr :=
  State.transact_write_of_error hp ((State.hostAccessError_write_cell_iff hp b h v).mpr (.inr hb))

/-- What a legal read returns while idle depends on the block alone, so the next one, with a longer list of replies, returns the
same. -/
theorem State.transact_read_again {s : State} (hp : s.params.Valid) (hb : s.busy = false) {a : Word} {size : Size}
    (ha : ¬ BadAccess s.params a size) :
    ∃ w, ∀ l, State.transact { s with replies := l } (.read a size) = { s with replies := w :: l } := by
  rcases access_cases hp a size with hbad | ⟨r, rfl, rfl⟩ | ⟨b, i, hi, rfl, rfl⟩
  · exact absurd hbad ha
  · refine ⟨s.readRegister r, fun l => ?_⟩
    rw [State.transact_read_idle (s := { s with replies := l }) hb r]
    cases r <;> rfl
  · refine ⟨(s.readCell b i).setWidth 32, fun l => ?_⟩
    rw [State.transact_read_cell_idle (s := { s with replies := l }) hp hb b hi]
    cases b <;> rfl

/-! The report (R249). -/

/-- STATUS, HERR aside, and the latch are the same. -/
def State.SameReport (s t : State) : Prop :=
  t.busy = s.busy ∧ t.done = s.done ∧ t.err = s.err ∧ t.trunc = s.trunc ∧ t.errcode = s.errcode ∧ t.latch = s.latch

theorem State.hostRead_sameReport (s : State) (a : Word) (size : Size) : s.SameReport (s.hostRead a size) := by
  obtain ⟨h, d, r, he⟩ := s.hostRead_fields a size
  rw [he]
  exact ⟨rfl, rfl, rfl, rfl, rfl, rfl⟩

/-- Of all writes only a size-4 write of CMD touches the report. -/
theorem State.hostWrite_sameReport (s : State) {a : Word} {size : Size} (v : Word) (h : ¬ (a = 0x04#32 ∧ size = .four)) :
    s.SameReport (s.hostWrite a size v) := by
  rcases s.hostWrite_cases a size v with he | ⟨-, he⟩ | ⟨r, -, -, -, ht, he⟩ | ⟨b, i, -, -, -, he⟩ <;> rw [he]
  · exact ⟨rfl, rfl, rfl, rfl, rfl, rfl⟩
  · rw [State.writeStatus]
    split <;> exact ⟨rfl, rfl, rfl, rfl, rfl, rfl⟩
  · obtain ⟨hsize, ha⟩ := target_eq_reg ht
    cases r with
    | cmd => exact absurd ⟨word_eq_ofNat ha, hsize⟩ h
    | status =>
      rw [State.writeRegister, State.writeStatus]
      split <;> exact ⟨rfl, rfl, rfl, rfl, rfl, rfl⟩
    | _ => exact ⟨rfl, rfl, rfl, rfl, rfl, rfl⟩
  · cases b <;> exact ⟨rfl, rfl, rfl, rfl, rfl, rfl⟩

/-! The inputs (R42, R43, R49, R50). -/

/-- The operand registers that no command writes lie at the offsets 0x0C to 0x24; no other register's write touches them. -/
theorem State.writeRegister_sameOperandRegisters (s : State) {r : Register} (v : Word)
    (h : ¬ (0x0C ≤ r.offset ∧ r.offset ≤ 0x24)) : s.SameOperandRegisters (s.writeRegister r v) := by
  cases r with
  | status =>
    rw [State.writeRegister, State.writeStatus]
    split <;> exact ⟨rfl, rfl, rfl, rfl, rfl, rfl, rfl⟩
  | width | height | bpc | fracNum | fracDen | ilen | clen => exact absurd (by decide) h
  | _ => exact ⟨rfl, rfl, rfl, rfl, rfl, rfl, rfl⟩

theorem State.writeStatus_sameInputs (s : State) (v : Word) : s.SameInputs (s.writeStatus v) := by
  rw [State.writeStatus]
  split <;> exact ⟨fun _ => rfl, fun _ => rfl⟩

theorem State.writeRegister_sameInputs (s : State) (r : Register) (v : Word) : s.SameInputs (s.writeRegister r v) := by
  cases r with
  | status => exact s.writeStatus_sameInputs v
  | _ => exact ⟨fun _ => rfl, fun _ => rfl⟩

/-- A write that changes such a register is a size-4 write at one of their offsets, while idle. -/
theorem State.hostWrite_registers {s : State} {a : Word} {size : Size} {v : Word}
    (h : ¬ s.SameOperandRegisters (s.hostWrite a size v)) :
    s.busy = false ∧ size = .four ∧ 0x0C ≤ a.toNat ∧ a.toNat ≤ 0x24 := by
  rcases s.hostWrite_cases a size v with he | ⟨-, he⟩ | ⟨r, hb, -, -, ht, he⟩ | ⟨b, i, -, -, -, he⟩ <;> rw [he] at h
  · exact absurd ⟨rfl, rfl, rfl, rfl, rfl, rfl, rfl⟩ h
  · exact absurd (s.writeRegister_sameOperandRegisters (r := .status) v (by decide)) h
  · obtain ⟨hsize, ha⟩ := target_eq_reg ht
    rw [ha]
    exact ⟨hb, hsize, not_not.mp fun hrange => h (s.writeRegister_sameOperandRegisters v hrange)⟩
  · exact absurd (by cases b <;> exact ⟨rfl, rfl, rfl, rfl, rfl, rfl, rfl⟩) h

/-- A write that changes a cell of IBUF or CBUF is a size-1 write at its address, while idle. -/
theorem State.hostWrite_cells (s : State) (a : Word) (size : Size) (v : Word) :
    (∀ j, (s.hostWrite a size v).ibufAt j ≠ s.ibufAt j → s.busy = false ∧ size = .one ∧ a.toNat = 0x10000000 + j) ∧
      ∀ j, (s.hostWrite a size v).cbufAt j ≠ s.cbufAt j → s.busy = false ∧ size = .one ∧ a.toNat = 0x20000000 + j := by
  have same : ∀ t, s.SameInputs t →
      (∀ j, t.ibufAt j ≠ s.ibufAt j → s.busy = false ∧ size = .one ∧ a.toNat = 0x10000000 + j) ∧
      ∀ j, t.cbufAt j ≠ s.cbufAt j → s.busy = false ∧ size = .one ∧ a.toNat = 0x20000000 + j :=
    fun t h => ⟨fun j hj => absurd (h.ibuf j) hj, fun j hj => absurd (h.cbuf j) hj⟩
  rcases s.hostWrite_cases a size v with he | ⟨-, he⟩ | ⟨r, -, -, -, -, he⟩ | ⟨b, i, hb, -, ht, he⟩ <;> rw [he]
  · exact same _ ⟨fun _ => rfl, fun _ => rfl⟩
  · exact same _ (s.writeStatus_sameInputs v)
  · exact same _ (s.writeRegister_sameInputs r v)
  · obtain ⟨hsize, -, ha⟩ := target_eq_cell ht
    cases b with
    | ibuf =>
      refine ⟨fun j hj => ?_, fun j hj => absurd rfl hj⟩
      rw [State.writeCell_ibufAt, ne_eq, ite_eq_right_iff, Classical.not_imp] at hj
      obtain ⟨rfl, -⟩ := hj
      exact ⟨hb, hsize, ha⟩
    | cbuf =>
      refine ⟨fun j hj => absurd rfl hj, fun j hj => ?_⟩
      rw [State.writeCell_cbufAt, ne_eq, ite_eq_right_iff, Classical.not_imp] at hj
      obtain ⟨rfl, -⟩ := hj
      exact ⟨hb, hsize, ha⟩
    | bbuf => exact same _ ⟨fun _ => rfl, fun _ => rfl⟩
    | obuf => exact same _ ⟨fun _ => rfl, fun _ => rfl⟩

/-- What the host moves while a command is in flight are no inputs. -/
theorem State.OnlyHostMoved.sameInputs {s t : State} (h : s.OnlyHostMoved t) : s.SameOperandRegisters t ∧ s.SameInputs t :=
  ⟨h.sameOutcome.registers, h.sameOutcome.inputs⟩

theorem State.noResetWithin_one {s : State} (h : ∀ rest, s.host ≠ .txn .reset :: rest) : s.NoResetWithin 1 := by
  rw [State.NoResetWithin]
  cases hhost : s.host with
  | nil => exact List.not_mem_nil
  | cons op rest =>
    rw [List.take_succ_cons, List.take_zero, List.mem_singleton]
    exact fun hop => h rest (by rw [hhost, hop])

/-- An operation short of a reset reads, or writes at one address. -/
theorem State.hostOp_cases (s : State) {op : HostOp} (rest : List HostOp) (hop : op ≠ .txn .reset) :
    (∃ a size p, s.hostOp op rest = { s.hostRead a size with host := p }) ∨
      ∃ a size v, s.hostOp op rest = { s.hostWrite a size v with host := rest } ∧
        (op = .txn (.write a size v) ∨ (size = .one ∧ op = .writeBack a)) := by
  cases op with
  | txn x =>
    cases x with
    | read a size => exact .inl ⟨a, size, rest, rfl⟩
    | write a size v => exact .inr ⟨a, size, v, rfl, .inl rfl⟩
    | reset => exact absurd rfl hop
  | wait => exact .inl ⟨statusAddr, .four, _, rfl⟩
  | writeBack a => exact .inr ⟨a, .one, s.lastReply, rfl, .inr ⟨rfl, rfl⟩⟩

/-- A step that is no reset leaves the inputs, or it is a write of the idle host: a completion leaves them (R99), and so does a
host that acts while a command is in flight (R93). -/
theorem step_inputs_cases {s t : State} (hstep : step s = .next t) (hreset : ∀ rest, s.host ≠ .txn .reset :: rest) :
    (s.SameOperandRegisters t ∧ s.SameInputs t) ∨ ∃ op rest a size v, s.host = op :: rest ∧
      t = { s.hostWrite a size v with host := rest } ∧ (op = .txn (.write a size v) ∨ (size = .one ∧ op = .writeBack a)) := by
  rcases step_cases hstep with ⟨-, -, hc⟩ | ⟨k, hb, -, rfl⟩ | ⟨-, rfl⟩
  · obtain ⟨r, hr⟩ := completeLatched_eq_complete s
    obtain rfl := Host.Outcome.next.inj (hr.symm.trans hc)
    exact .inl ⟨(s.complete_frame r).registers, (s.complete_frame r).inputs⟩
  · obtain ⟨hmoved, -⟩ := State.hostStep_busy (s := { s with wait := k }) hb (State.noResetWithin_one hreset)
    exact .inl (State.OnlyHostMoved.trans ⟨k, s.herr, s.draws, s.replies, s.host, rfl⟩ hmoved).sameInputs
  · cases hhost : s.host with
    | nil =>
      rw [State.hostStep_nil hhost]
      exact .inl (State.OnlyHostMoved.refl s).sameInputs
    | cons op rest =>
      have hop : op ≠ .txn .reset := fun h => hreset rest (by rw [hhost, h])
      rw [State.hostStep_cons hhost]
      rcases s.hostOp_cases rest hop with ⟨a, size, p, he⟩ | ⟨a, size, v, he, hwrite⟩
      · obtain ⟨h, d, r, hread⟩ := s.hostRead_fields a size
        rw [he, hread]
        exact .inl (State.OnlyHostMoved.sameInputs ⟨_, _, _, _, _, rfl⟩)
      · exact .inr ⟨op, rest, a, size, v, rfl, he, hwrite⟩

end Sys2Proof.Machine
end

section
/-! PROOFS. Host transactions: registers, access while busy, reads and reset (R35, R39 to R46, R85, R90, R249, R271). -/

namespace Sys2Proof.Machine

/-- Settles O19: STATUS reads exactly at any time, and the word is its fields side by side. -/
theorem statusReadLayout : Obligations.StatusReadLayout := fun s =>
  ⟨_, s.transact_read_exact (r := .status) rfl, s.statusWord_toNat⟩

/-- Settles O28: the seven exact registers, a free value everywhere else, and every write but that of STATUS an error. -/
theorem accessWhileBusy : Obligations.AccessWhileBusy := by
  intro s v hp hb
  refine ⟨fun r hr => ?_, fun r hr => ?_, fun b i hi => ⟨⟨busyCell b s.draws, ?_, ?_⟩, ?_⟩,
    fun r hr => State.transact_write_busy hb hr v, fun a size hbad => ⟨?_, ?_⟩⟩
  · exact s.transact_read_exact (by fin_cases hr <;> rfl)
  · exact ⟨_, State.transact_read_busy hb (by fin_cases hr <;> rfl)⟩
  · rintro rfl
    exact busyCell_bbuf_le s.draws
  · rw [BitVec.ofNat_toNat]
    exact State.transact_read_cell_busy hp hb b hi
  · exact State.transact_write_cell_busy hp hb b hi v
  · exact State.transact_read_of_badAccess hp hbad
  · exact State.transact_write_of_badAccess hp hbad v

/-- Settles O31: an idle read returns a value of the block, which the reply leaves as it was; a busy one may also draw. -/
theorem readsHaveNoSideEffect : Obligations.ReadsHaveNoSideEffect := by
  intro s a size hp
  refine ⟨fun ha hb => ?_, fun ha hb => ?_, fun hbad => State.transact_read_of_badAccess hp hbad⟩
  · obtain ⟨w, hw⟩ := State.transact_read_again hp hb ha
    exact ⟨w, hw s.replies, hw (w :: s.replies)⟩
  · rcases s.hostRead_cases a size with ⟨hnone, -⟩ | ⟨-, w, he⟩ | ⟨w, he⟩
    · exact absurd ((target_eq_none_iff hp a size).mp hnone) ha
    · exact ⟨w, s.draws + 1, he⟩
    · exact ⟨w, s.draws, he⟩

/-- Settles O32: an idle step is the host's, and of its operations only a size-4 write of CMD and a reset touch the report. -/
theorem reportStaysUntilIssueOrReset : Obligations.ReportStaysUntilIssueOrReset := by
  intro s t hb hstep
  obtain rfl := Host.Outcome.next.inj ((step_idle hb).symm.trans hstep)
  have same : ∀ t, s.SameReport t →
      t.busy = false ∧ t.done = s.done ∧ t.err = s.err ∧ t.trunc = s.trunc ∧ t.errcode = s.errcode ∧ t.latch = s.latch :=
    fun _ ⟨hbusy, hrest⟩ => ⟨hbusy.trans hb, hrest⟩
  cases hhost : s.host with
  | nil =>
    rw [State.hostStep_nil hhost]
    exact .inl (same s ⟨rfl, rfl, rfl, rfl, rfl, rfl⟩)
  | cons op rest =>
    rw [State.hostStep_cons hhost]
    by_cases hop : op = .txn .reset
    · exact .inr (.inr ⟨rest, by rw [hop]⟩)
    rcases s.hostOp_cases rest hop with ⟨a, size, p, he⟩ | ⟨a, size, v, he, hwrite⟩ <;> rw [he]
    · exact .inl (same _ (s.hostRead_sameReport a size))
    · by_cases hcmd : a = 0x04#32 ∧ size = .four
      · obtain ⟨rfl, rfl⟩ := hcmd
        rcases hwrite with rfl | ⟨hsize, -⟩
        · exact .inr (.inl ⟨v, rest, rfl⟩)
        · cases hsize
      · exact .inl (same _ (s.hostWrite_sameReport v hcmd))

/-- Settles O33: only a write of the idle host reaches the inputs, a register's with size 4 and a cell's with size 1. -/
theorem inputsChangeByHostWritesOnly : Obligations.InputsChangeByHostWritesOnly := by
  intro s t hstep hreset
  rcases step_inputs_cases hstep hreset with ⟨hregs, hinputs⟩ | ⟨op, rest, a, size, v, hhost, rfl, hwrite⟩
  · exact ⟨fun h => absurd hregs h, fun i h => absurd (hinputs.ibuf i) h, fun i h => absurd (hinputs.cbuf i) h⟩
  obtain ⟨hibuf, hcbuf⟩ := s.hostWrite_cells a size v
  have hbyte : size = .one → (∃ v, s.host = .txn (.write a .one v) :: rest) ∨ s.host = .writeBack a :: rest := by
    rintro rfl
    rcases hwrite with rfl | ⟨-, rfl⟩
    · exact .inl ⟨v, hhost⟩
    · exact .inr hhost
  refine ⟨fun h => ?_, fun i h => ?_, fun i h => ?_⟩
  · obtain ⟨hb, rfl, hlo, hhi⟩ := State.hostWrite_registers fun hsame => h ⟨hsame.width, hsame.height, hsame.bpc,
      hsame.fracNum, hsame.fracDen, hsame.ilen, hsame.clen⟩
    rcases hwrite with rfl | ⟨hsize, -⟩
    · exact ⟨hb, a, v, rest, hhost, hlo, hhi⟩
    · cases hsize
  · obtain ⟨hb, hsize, ha⟩ := hibuf i h
    exact ⟨hb, rest, a, ha, hbyte hsize⟩
  · obtain ⟨hb, hsize, ha⟩ := hcbuf i h
    exact ⟨hb, rest, a, ha, hbyte hsize⟩

/-- Settles O3: the Reset transaction is `resetBlock`, whose registers are the reset state's and whose buffers list no cell. -/
theorem resetTransactionClearsBlock : Obligations.ResetTransactionClearsBlock := fun _ =>
  have status : State.reset.statusWord = 0#32 := by decide
  ⟨status, rfl, rfl, rfl, rfl, rfl, rfl, rfl, rfl, rfl, rfl, rfl, fun _ => rfl, fun _ => rfl, fun _ => rfl, fun _ => rfl,
    rfl, rfl⟩

/-- Settles O22: while idle each of the six takes `v` whole and reads as it is. -/
theorem operandRegisters : Obligations.OperandRegisters := by
  intro s v hb
  exact ⟨State.transact_write_idle hb (r := .bpc) (by decide) rfl v,
    State.transact_write_idle hb (r := .fracNum) (by decide) rfl v,
    State.transact_write_idle hb (r := .fracDen) (by decide) rfl v,
    State.transact_write_idle hb (r := .ilen) (by decide) rfl v,
    State.transact_write_idle hb (r := .clen) (by decide) rfl v,
    State.transact_write_idle hb (r := .blen) (by decide) rfl v,
    State.transact_read_idle hb .bpc, State.transact_read_idle hb .fracNum, State.transact_read_idle hb .fracDen,
    State.transact_read_idle hb .ilen, State.transact_read_idle hb .clen, State.transact_read_idle hb .blen⟩

/-- Settles O23: while idle they read as they are, RESULT in two halves, and a write of a read-only register is an error. -/
theorem resultRegisters : Obligations.ResultRegisters := by
  intro s v
  have hhi : s.result.toNat >>> 32 = s.result.toNat / 2 ^ 32 := Nat.shiftRight_eq_div_pow _ _
  rw [← hhi]
  exact ⟨fun hb => ⟨State.transact_read_idle hb .olen, State.transact_read_idle hb .resultLo,
      State.transact_read_idle hb .resultHi⟩,
    s.transact_write_readOnly (r := .olen) rfl v, s.transact_write_readOnly (r := .resultLo) rfl v,
    s.transact_write_readOnly (r := .resultHi) rfl v⟩

end Sys2Proof.Machine
end

section
/-! SUPPORT. The two steps of one cell of `copyout` on an idle block (R120, R284). -/

namespace Sys2Proof.Machine

/-- `s` with the cells of CBUF, the replies and the host's program as given: all that a `copyout` moves. -/
def State.copying (s : State) (m : Memory Byte) (r : List Word) (p : List HostOp) : State :=
  { s with cbuf := m, replies := r, host := p }

/-- A cell is read into the replies and written back from there. -/
theorem run_copyPair {s : State} (hp : s.params.Valid) (hb : s.busy = false) {j : Nat} (hj : j < s.params.cbufSize)
    (rest : List HostOp) (m : Memory Byte) (r : List Word) :
    ∃ r', Sys2Proof.core.run 2 (s.copying m r (copyPair j ++ rest)) =
      .next (s.copying (Memory.write m j [s.obufAt j]) r' rest) := by
  have hobuf : j < s.params.obufSize := by
    obtain ⟨-, -, -, -, -, hsize, -⟩ := hp
    exact hj.trans_le hsize
  have hread : step (s.copying m r (copyPair j ++ rest)) =
      .next (s.copying m ((s.obufAt j).setWidth 32 :: r) (.writeBack (cellAddr .cbuf j) :: rest)) :=
    (step_idle_cons (s := s.copying m r (copyPair j ++ rest)) hb rfl).trans
      (congrArg (fun t : State => Host.Outcome.next { t with host := .writeBack (cellAddr .cbuf j) :: rest })
        (State.transact_read_cell_idle (s := s.copying m r (copyPair j ++ rest)) hp hb .obuf hobuf))
  have hbyte : ((s.obufAt j).setWidth 32).setWidth 8 = s.obufAt j := by simp
  have hwrite : step (s.copying m ((s.obufAt j).setWidth 32 :: r) (.writeBack (cellAddr .cbuf j) :: rest)) =
      .next (s.copying (Memory.write m j [s.obufAt j]) ((s.obufAt j).setWidth 32 :: r) rest) := by
    have ht := State.transact_write_cell_idle
      (s := s.copying m ((s.obufAt j).setWidth 32 :: r) (.writeBack (cellAddr .cbuf j) :: rest)) hp hb (b := .cbuf) rfl hj
      ((s.obufAt j).setWidth 32)
    rw [hbyte] at ht
    exact (step_idle_cons (s := s.copying m _ (.writeBack (cellAddr .cbuf j) :: rest)) hb rfl).trans
      (congrArg (fun t : State => Host.Outcome.next { t with host := rest }) ht)
  exact ⟨_, (run_succ 1 hread).trans (run_succ 0 hwrite)⟩

/-- The cells go one by one, from 0 up. -/
theorem run_copyout {s : State} (hp : s.params.Valid) (hb : s.busy = false) (n : Nat) (hn : n ≤ s.params.cbufSize)
    (rest : List HostOp) :
    ∃ m r, Sys2Proof.core.run (2 * n) { s with host := HostInstr.expand (.copyout n) ++ rest } = .next (s.copying m r rest) ∧
      ∀ i, (s.copying m r rest).cbufAt i = if i < n then s.obufAt i else s.cbufAt i := by
  induction n generalizing rest with
  | zero => exact ⟨s.cbuf, s.replies, rfl, fun _ => rfl⟩
  | succ n ih =>
    have hsplit : HostInstr.expand (.copyout (n + 1)) ++ rest = HostInstr.expand (.copyout n) ++ (copyPair n ++ rest) := by
      simp only [HostInstr.expand, List.range_succ, List.flatMap_append, List.flatMap_singleton, List.append_assoc]
    obtain ⟨m, r, hrun, hcells⟩ := ih (Nat.le_of_succ_le hn) (copyPair n ++ rest)
    obtain ⟨r', hpair⟩ := run_copyPair hp hb hn rest m r
    refine ⟨Memory.write m n [s.obufAt n], r', ?_, fun i => ?_⟩
    · rw [hsplit]
      exact (run_add 2 hrun).trans hpair
    · have hcell : (s.copying (Memory.write m n [s.obufAt n]) r' rest).cbufAt i =
          if i = n then s.obufAt n else (s.copying m r (copyPair n ++ rest)).cbufAt i :=
        State.writeCell_cbufAt (s.copying m r rest) n i (s.obufAt n)
      rw [hcell, hcells]
      by_cases hi : i = n
      · rw [if_pos hi, if_pos (hi.trans_lt (Nat.lt_succ_self n)), hi]
      · have hlt : i < n + 1 ↔ i < n := by omega
        simp only [if_neg hi, hlt]

end Sys2Proof.Machine
end

section
/-! PROOFS. Host programs, instances, and samples of the encodings (R98, R112, R119 to R121, R284). -/

namespace Sys2Proof.Machine

/-- Settles O56: each pair of steps copies the next cell, and only CBUF, the replies and the host's program move. -/
theorem copyoutCopiesOutput : Obligations.CopyoutCopiesOutput := by
  intro s n rest hp hb hn
  obtain ⟨m, r, hrun, hcells⟩ := run_copyout hp hb n hn rest
  exact ⟨_, hrun, hcells, fun _ => rfl, ⟨rfl, fun _ => rfl⟩, ⟨rfl, fun _ => rfl⟩, ⟨rfl, rfl, rfl, rfl, rfl, rfl, rfl⟩, rfl, rfl,
    rfl, rfl⟩

/-- Settles O57: the system after the step is the list with that one place replaced. -/
theorem instancesNeverInteract : Obligations.InstancesNeverInteract := by
  intro sys k s hk
  obtain ⟨t, ht⟩ := stepAlwaysAnswersNext s
  obtain ⟨hlt, -⟩ := List.getElem?_eq_some_iff.mp hk
  refine ⟨sys.set k t, t, ?_, ht, ?_, fun j hj => ?_⟩
  · rw [stepInstance, hk]
    simp only [ht]
  · exact List.getElem?_set_self hlt
  · exact List.getElem?_set_ne (Ne.symm hj)

/-- Settles O4: each is the encoding of its command. -/
theorem tableWordsDecode : Obligations.TableWordsDecode :=
  ⟨decode_encode .unpack, decode_encode .capacity, decode_encode .parse, decode_encode .arbitrate, decode_encode .arbitrateF,
    decode_encode .embed, decode_encode .extmsg⟩

/-- Settles O55: the expansions and the two lines evaluate to what is stated. -/
theorem assemblerEncodings : Obligations.AssemblerEncodings := by
  refine ⟨?_, ?_, ?_, ?_, ?_, ?_⟩ <;> decide

end Sys2Proof.Machine
end
